-- ==== Sys2Proof/Word.lean ====
section
/-! DEFINITION. The word types of the block (00_scope.md R5, R6): every quantity is unsigned. -/
namespace Sys2Proof

/-- SYM_W: a symbol, a byte of IN or OUT, a command word (00_scope.md R5, 30_encoding.md R68). -/
abbrev Byte := BitVec 8

/-- Cursors, lengths, the results R0 and R1, node frequencies and queue priorities (00_scope.md R5). -/
abbrev Word := BitVec 64

/-- Operand register A and a code's bit pattern, CODE_W (00_scope.md R5, 10_state.md R10). -/
abbrev Pattern := BitVec 256

/-- A frequency-table count and a header frequency, COUNT_W and HFREQ_W (00_scope.md R5). -/
abbrev Count := BitVec 32

/-- An index into the node arena; 0x1FF is NULL (10_state.md R17). -/
abbrev NodeIx := BitVec 9

end Sys2Proof
end

