-- ==== Sys2Proof/Syntax.lean ====
section
/-! DEFINITION. The commands of the block, one constructor per row of opcode_table.json (30_encoding.md R70), and the
program lines of 30_encoding.md R73. -/
namespace Sys2Proof

/-- The twenty-nine commands. A command word holds no operand (30_encoding.md R68), so no constructor has an argument. -/
inductive Instr where
  | ftClear | ftSet | freqScan
  | srcOpen | sinkOpen
  | pqInit | pqInsert | pqExtractMin | pqPeek | pqSize | pqIsEmpty
  | tbBuild
  | cgGenerate | cgVerify
  | bwInit | bwWriteBit | bwWriteBits | bwClose
  | brInit | brReadBit
  | cfWriteHeader | cfReadHeader
  | compress | encodeStream | patchPadding
  | decompress | decInit | decStep | decStream
deriving DecidableEq, Repr

/-- Which operand registers a command reads (30_encoding.md R69). -/
inductive Format where
  | n | a | ab
deriving DecidableEq, Repr

/-- The format of each command (30_encoding.md R69, R70). -/
def Instr.format : Instr → Format
  | .ftClear => .n | .ftSet => .ab | .freqScan => .n
  | .srcOpen => .n | .sinkOpen => .n
  | .pqInit => .n | .pqInsert => .ab | .pqExtractMin => .n | .pqPeek => .n | .pqSize => .n | .pqIsEmpty => .n
  | .tbBuild => .n
  | .cgGenerate => .n | .cgVerify => .n
  | .bwInit => .n | .bwWriteBit => .a | .bwWriteBits => .ab | .bwClose => .n
  | .brInit => .n | .brReadBit => .n
  | .cfWriteHeader => .ab | .cfReadHeader => .n
  | .compress => .n | .encodeStream => .n | .patchPadding => .a
  | .decompress => .n | .decInit => .n | .decStep => .n | .decStream => .n

/-- Width of the slice of A the command reads, from bit 0 up; 0 where it reads none (30_encoding.md R69). -/
def Instr.widthA : Instr → Nat
  | .ftClear => 0 | .ftSet => 8 | .freqScan => 0
  | .srcOpen => 0 | .sinkOpen => 0
  | .pqInit => 0 | .pqInsert => 16 | .pqExtractMin => 0 | .pqPeek => 0 | .pqSize => 0 | .pqIsEmpty => 0
  | .tbBuild => 0
  | .cgGenerate => 0 | .cgVerify => 0
  | .bwInit => 0 | .bwWriteBit => 1 | .bwWriteBits => 256 | .bwClose => 0
  | .brInit => 0 | .brReadBit => 0
  | .cfWriteHeader => 8 | .cfReadHeader => 0
  | .compress => 0 | .encodeStream => 0 | .patchPadding => 8
  | .decompress => 0 | .decInit => 0 | .decStep => 0 | .decStream => 0

/-- Width of the slice of B the command reads, from bit 0 up; 0 where it reads none (30_encoding.md R69). -/
def Instr.widthB : Instr → Nat
  | .ftClear => 0 | .ftSet => 32 | .freqScan => 0
  | .srcOpen => 0 | .sinkOpen => 0
  | .pqInit => 0 | .pqInsert => 64 | .pqExtractMin => 0 | .pqPeek => 0 | .pqSize => 0 | .pqIsEmpty => 0
  | .tbBuild => 0
  | .cgGenerate => 0 | .cgVerify => 0
  | .bwInit => 0 | .bwWriteBit => 0 | .bwWriteBits => 64 | .bwClose => 0
  | .brInit => 0 | .brReadBit => 0
  | .cfWriteHeader => 64 | .cfReadHeader => 0
  | .compress => 0 | .encodeStream => 0 | .patchPadding => 0
  | .decompress => 0 | .decInit => 0 | .decStep => 0 | .decStream => 0

/-- A program line, MNEMONIC a, b (30_encoding.md R73): a and b are the values of the named slices. -/
structure Line where
  instr : Instr
  a : Nat := 0
  b : Nat := 0
deriving DecidableEq, Repr

end Sys2Proof
end

