-- ==== Sys2Proof/WellFormed.lean ====
section
/-! DEFINITION. When a program line is well formed (30_encoding.md R69, R73). A command word alone has no operand, so
there is nothing to check of an Instr. -/
namespace Sys2Proof

/-- The value for A fits the slice the command names; a command that reads nothing of A has the value 0. -/
abbrev Line.AFits (l : Line) : Prop := l.a < 2 ^ l.instr.widthA

/-- The value for B fits the slice the command names; a command that reads nothing of B has the value 0. -/
abbrev Line.BFits (l : Line) : Prop := l.b < 2 ^ l.instr.widthB

/-- A line whose operands are values of the slices it names, so that its encoding keeps them whole (30_encoding.md R73); of
a wider operand the encoding keeps the slice. -/
abbrev Line.WellFormed (l : Line) : Prop := l.AFits ∧ l.BFits

end Sys2Proof
end

