-- ==== Sys2Proof/Decode.lean ====
section
/-! DEFINITION. The decoder of CMD, total on every byte, and the encoder (30_encoding.md R68 to R73). -/
namespace Sys2Proof

/-- Why a command word or the encoding of a line is refused. -/
inductive DecodeReject where
  /-- The value of CMD is none of the 29 opcodes (30_encoding.md R71). -/
  | illegalCommand (cmd : Byte)
  /-- An opcode alone whose command has operands: a line of format A or AB is a triple (30_encoding.md R73). -/
  | missingOperands (cmd : Byte)
  /-- A triple whose command has none: a line of format N is the opcode alone (30_encoding.md R73). -/
  | operandsNotTaken (cmd : Byte)
deriving DecidableEq, Repr

/-- The opcode map of 30_encoding.md R70: all eight bits are compared. -/
def decode (cmd : Byte) : Except DecodeReject Instr :=
  match cmd.toNat with
  | 0x01 => .ok .ftClear
  | 0x02 => .ok .ftSet
  | 0x03 => .ok .freqScan
  | 0x08 => .ok .srcOpen
  | 0x09 => .ok .sinkOpen
  | 0x10 => .ok .pqInit
  | 0x11 => .ok .pqInsert
  | 0x12 => .ok .pqExtractMin
  | 0x13 => .ok .pqPeek
  | 0x14 => .ok .pqSize
  | 0x15 => .ok .pqIsEmpty
  | 0x20 => .ok .tbBuild
  | 0x30 => .ok .cgGenerate
  | 0x31 => .ok .cgVerify
  | 0x40 => .ok .bwInit
  | 0x41 => .ok .bwWriteBit
  | 0x42 => .ok .bwWriteBits
  | 0x43 => .ok .bwClose
  | 0x50 => .ok .brInit
  | 0x51 => .ok .brReadBit
  | 0x60 => .ok .cfWriteHeader
  | 0x61 => .ok .cfReadHeader
  | 0x70 => .ok .compress
  | 0x71 => .ok .encodeStream
  | 0x72 => .ok .patchPadding
  | 0x80 => .ok .decompress
  | 0x81 => .ok .decInit
  | 0x82 => .ok .decStep
  | 0x83 => .ok .decStream
  | _ => .error (.illegalCommand cmd)

/-- The opcode of a command (30_encoding.md R70). -/
def encode : Instr → Byte
  | .ftClear => 0x01#8
  | .ftSet => 0x02#8
  | .freqScan => 0x03#8
  | .srcOpen => 0x08#8
  | .sinkOpen => 0x09#8
  | .pqInit => 0x10#8
  | .pqInsert => 0x11#8
  | .pqExtractMin => 0x12#8
  | .pqPeek => 0x13#8
  | .pqSize => 0x14#8
  | .pqIsEmpty => 0x15#8
  | .tbBuild => 0x20#8
  | .cgGenerate => 0x30#8
  | .cgVerify => 0x31#8
  | .bwInit => 0x40#8
  | .bwWriteBit => 0x41#8
  | .bwWriteBits => 0x42#8
  | .bwClose => 0x43#8
  | .brInit => 0x50#8
  | .brReadBit => 0x51#8
  | .cfWriteHeader => 0x60#8
  | .cfReadHeader => 0x61#8
  | .compress => 0x70#8
  | .encodeStream => 0x71#8
  | .patchPadding => 0x72#8
  | .decompress => 0x80#8
  | .decInit => 0x81#8
  | .decStep => 0x82#8
  | .decStream => 0x83#8

/-- The encoding of a program line: for format N the opcode alone, for formats A and AB the triple (opcode, A, B)
(30_encoding.md R73). -/
inductive Encoding where
  | opcode (op : Byte)
  | triple (op : Byte) (a : Pattern) (b : Word)
deriving DecidableEq, Repr

/-- The line with its operands cut to the slices the command names: the bits of a wider value are 0 in A and B
(30_encoding.md R69, R73; 95_test_vectors.md Part 2: the assembler form zeroes the other bits). -/
def Line.fit (l : Line) : Line := { l with a := l.a % 2 ^ l.instr.widthA, b := l.b % 2 ^ l.instr.widthB }

/-- In a triple the named slices hold the line's values, cut to the slices, and every other bit of A and B is 0; a line of
format A names no slice of B, so B is 0 (30_encoding.md R73, log 24). -/
def encodeLine (l : Line) : Encoding :=
  match l.instr.format with
  | .n => .opcode (encode l.instr)
  | .a => .triple (encode l.instr) (BitVec.ofNat 256 l.fit.a) (BitVec.ofNat 64 l.fit.b)
  | .ab => .triple (encode l.instr) (BitVec.ofNat 256 l.fit.a) (BitVec.ofNat 64 l.fit.b)

/-- The line of a command whose operands are the slices it names of these values (30_encoding.md R69). -/
def sliceLine (i : Instr) (a : Pattern) (b : Word) : Line := Line.fit { instr := i, a := a.toNat, b := b.toNat }

/-- The line an encoding stands for: the bits of A and B outside the named slices are ignored (10_state.md R10). -/
def decodeLine (e : Encoding) : Except DecodeReject Line :=
  match e with
  | .opcode op =>
    match decode op with
    | .ok i => if i.format = .n then .ok { instr := i } else .error (.missingOperands op)
    | .error r => .error r
  | .triple op a b =>
    match decode op with
    | .ok i => if i.format = .n then .error (.operandsNotTaken op) else .ok (sliceLine i a b)
    | .error r => .error r

/-- What the decoder reads from a word numbered as opcode_table.json numbers it: a command word has one length, 8 bits
(30_encoding.md R68). -/
def decodeTableWord (nbits w : Nat) : Option Instr :=
  if nbits = 8 then
    match decode (BitVec.ofNat 8 w) with
    | .ok i => some i
    | .error _ => none
  else none

end Sys2Proof
end

