-- ==== Sys2Proof/Config.lean ====
section
/-! DEFINITION. What this block fixes (00_scope.md R5) and the values the spec leaves open. -/
namespace Sys2Proof.Config

/-- What a byte of IN or OUT that nobody has written reads as. DESIGN CHOICE, unsafe (log 5). -/
def blankByte : Byte := 0x00#8

/-- MAX_SYMS: the largest number of symbols a container can carry (00_scope.md R5). -/
def maxSyms : Nat := 255

/-- PAD_OFFSET: where paddingBits stands in a container (00_scope.md R5, 47_compress_sequencer.md R145). -/
def padOffset : Word := 11#64

/-- MAGIC, first byte (30_encoding.md R61). -/
def magic0 : Byte := 0x48#8

/-- MAGIC, second byte (30_encoding.md R61). -/
def magic1 : Byte := 0x46#8

/-- NULL, the index that names no node record (10_state.md R17). -/
def null : NodeIx := 0x1FF#9

/-- How many nodes a path from the root can have: its leaf is at depth 0 to 255 (43_code_generator.md R106, 42_tree_builder.md
R99). -/
def pathMax : Nat := 256

/-- Free value: OUT_POS after the byte at the last offset, 2^64 - 1, was written; the spec states none
(10_state.md R12). Applied to the number of accesses asked so far, so that each use is a fresh value. DESIGN CHOICE, safe (log 9). -/
opaque outPosPastEnd : Nat → Word

/-- Free value: DEC_COUNT after symbol number 2^64; the spec states none (48_decode_traversal.md R160).
Applied to the number of accesses asked so far. DESIGN CHOICE, safe (log 10). -/
opaque decCountPastEnd : Nat → Word

/-- Free value: R0 after PQ_SIZE of a queue of 2^64 entries or more (10_state.md R10, 41_priority_queue.md R94).
Applied to the size. DESIGN CHOICE, safe (log 11). -/
opaque pqSizePastEnd : Nat → Word

end Sys2Proof.Config
end

