-- ==== Sys2Proof/Machine/State.lean ====
section
/-! DEFINITION. The architectural state of the block (10_state.md), as plain data, and its value after reset (R28). -/
namespace Sys2Proof.Machine

/-- The error kinds (60_exceptions.md R176). A kind that ends a command is reported in STATUS; it does not stop the machine. -/
inductive ErrKind where
  | ioError | emptyInput | alphabetTooLarge | queueEmpty | emptyAlphabet | badMagic | truncatedHeader
  | truncatedStream | corruptHeader | corruptStream | sizeMismatch | contentMismatch | endOfStream
  | illegalCommand | freqOverflow | missingCode | badOperand | internalCheckFailed | notReady
deriving DecidableEq, Repr

/-- The two byte spaces (20_memory.md R40, R41). -/
inductive Space where
  | inp | out
deriving DecidableEq, Repr

/-- Bytes of a space by offset, in one canonical form: offsets strictly rising and below 2^64, no entry equal to
`Config.blankByte`, which is what an unlisted offset reads as (log 5). -/
abbrev Memory := List Host.Cell

/-- The canonical form of a memory. -/
abbrev Memory.wf (m : Memory) : Prop :=
  m.Pairwise (fun c d => c.1 < d.1) ∧ ∀ c ∈ m, c.1 < 2 ^ 64 ∧ c.2 ≠ Config.blankByte

/-- An entry of the frequency table (10_state.md R15). -/
structure FtEntry where
  present : Bool
  count : Count
deriving DecidableEq, Repr

/-- An entry of the priority queue (10_state.md R16); seq is a natural number (log 8). -/
structure PqEntry where
  value : BitVec 16
  prio : Word
  seq : Nat
deriving DecidableEq, Repr

/-- The priority queue: PQ and PQ_SEQ (10_state.md R16). -/
structure Queue where
  entries : List PqEntry
  seq : Nat
deriving DecidableEq, Repr

/-- A node record's kind (10_state.md R17). -/
inductive NodeKind where
  | leaf | internal
deriving DecidableEq, Repr

/-- A node record (10_state.md R17). -/
structure Node where
  kind : NodeKind
  filler : Bool
  sym : Byte
  freq : Word
  left : NodeIx
  right : NodeIx
deriving DecidableEq, Repr

/-- The node arena with NODE_CNT, ROOT and ROOT_VALID (10_state.md R17, R18). -/
structure Tree where
  node : Vector Node 511
  cnt : NodeIx
  root : NodeIx
  valid : Bool
deriving DecidableEq, Repr

/-- A code word (10_state.md R19, 30_encoding.md R67). -/
structure Code where
  valid : Bool
  len : Byte
  bits : Pattern
deriving DecidableEq, Repr

/-- The code table with CT_VALID (10_state.md R19). -/
structure Codes where
  ct : Vector Code 256
  valid : Bool
deriving DecidableEq, Repr

/-- The BitWriter: BW_CUR, BW_NBITS, BW_TOTAL (10_state.md R20); the total is a natural number (log 8). -/
structure BitWriter where
  cur : Byte
  nbits : BitVec 3
  total : Nat
deriving DecidableEq, Repr

/-- The BitReader: BR_CUR, BR_LEFT, BR_FINISHED (10_state.md R21). -/
structure BitReader where
  cur : Byte
  left : BitVec 4
  finished : Bool
deriving DecidableEq, Repr

/-- One record HDR_ENT[i] (10_state.md R22). -/
structure HdrEntry where
  sym : Byte
  freq : Count
deriving DecidableEq, Repr

/-- The header registers with HDR_VALID (10_state.md R22). -/
structure Header where
  magic : BitVec 16
  size : Word
  num : Byte
  pad : Byte
  ent : Vector HdrEntry 255
  valid : Bool
deriving DecidableEq, Repr

/-- The decoder registers: DEC_CUR, DEC_COUNT, DEC_VALID (10_state.md R23). -/
structure Decoder where
  cur : NodeIx
  count : Word
  valid : Bool
deriving DecidableEq, Repr

/-- A byte space with its length and cursor: IN, IN_LEN, IN_POS or OUT, OUT_LEN, OUT_POS (10_state.md R24, R25). -/
structure Stream where
  mem : Memory
  len : Word
  pos : Word
deriving DecidableEq, Repr

/-- A byte access the environment makes fail: every access to that byte, or only the one of that number (log 7). -/
structure IoFault where
  space : Space
  offset : Word
  access : Option Nat
deriving DecidableEq, Repr

/-- The two OPEN parameters as plain data (92_eei_decisions.md D4, D25): `tieRank` is TIEBREAK (log 6), `ioFaults` is
IO_FAULT and `ioAsked` the number of accesses asked of it so far (log 7). The block never writes the first two. -/
structure Env where
  tieRank : List PqEntry
  ioFaults : List IoFault
  ioAsked : Nat
deriving DecidableEq, Repr

/-- What the host may do while the block is idle (10_state.md R29, 70_reset_and_hazards.md R200). -/
inductive HostAction where
  /-- The host writes register A. -/
  | writeA (v : Pattern)
  /-- The host writes register B. -/
  | writeB (v : Word)
  /-- The host writes CMD: the block decodes the value and runs the command to its end (10_state.md R11). -/
  | writeCmd (c : Byte)
  /-- The host writes IN_LEN. -/
  | writeInLen (v : Word)
  /-- The host writes one byte of IN. -/
  | writeIn (offset : Word) (v : Byte)
  /-- The reset event. -/
  | reset
deriving DecidableEq, Repr

/-- Every piece of state 10_state.md gives the block, the two parameters, and the host's pending actions (log 1). -/
structure State where
  a : Pattern
  b : Word
  r0 : Word
  r1 : Word
  cmd : Byte
  status : Byte
  seqStep : BitVec 4
  ft : Vector FtEntry 256
  queue : Queue
  tree : Tree
  codes : Codes
  bw : BitWriter
  br : BitReader
  hdr : Header
  dec : Decoder
  src : Stream
  sink : Stream
  env : Env
  host : List HostAction
deriving DecidableEq, Repr

/-- Why the machine stops. Each is raised only in a state that no run from reset reaches, where a rule of the spec would
use something that does not exist: safe. -/
inductive Fault where
  /-- CG_GENERATE, DEC_STEP, DEC_STREAM: NODE[0x1FF], which names no record, would be read (10_state.md R17).
  Safe (log 12). -/
  | nodeOutOfArena
  /-- CG_GENERATE: the walk has come to a node at depth 256. The depth is 0 to 255 (43_code_generator.md R106), and
  a tree of 10_state.md R27 is no deeper. Safe (log 13). -/
  | treeTooDeep
  /-- BR_READ_BIT, DEC_STEP, DEC_STREAM: BR_LEFT is above 8 and names no bit of BR_CUR (10_state.md R21
  gives it the range 0 to 8). Safe (log 14). -/
  | bitOutOfByte
deriving DecidableEq, Repr

/-- Why an instruction has no meaning. -/
inductive Refusal where
  /-- The command's meaning is not written yet: raised by its arm of exec. Safe. -/
  | notModelled (mnemonic : String)
deriving DecidableEq, Repr

/-- An empty frequency-table entry (10_state.md R15). -/
def FtEntry.empty : FtEntry := { present := false, count := 0#32 }

/-- A code-table entry of a symbol without a code (10_state.md R19). -/
def Code.none : Code := { valid := false, len := 0#8, bits := 0#256 }

/-- What a node record holds at reset: the spec leaves it unspecified. DESIGN CHOICE (log 4). -/
def Node.blank : Node :=
  { kind := .leaf, filler := false, sym := 0#8, freq := 0#64, left := Config.null, right := Config.null }

/-- What HDR_ENT[i] holds at reset: the spec leaves it unspecified. DESIGN CHOICE (log 4). -/
def HdrEntry.blank : HdrEntry := { sym := 0#8, freq := 0#32 }

/-- A new BitWriter has written nothing (10_state.md R28, 44_bit_writer.md R115). -/
def BitWriter.init : BitWriter := { cur := 0#8, nbits := 0#3, total := 0 }

/-- A new BitReader has fetched nothing (10_state.md R28, 45_bit_reader.md R125). -/
def BitReader.init : BitReader := { cur := 0#8, left := 0#4, finished := false }

/-- The state after reset (10_state.md R28); nothing is loaded in IN and the parameters are the defaults (log 3, log 22). -/
def State.reset : State where
  a := 0#256
  b := 0#64
  r0 := 0#64
  r1 := 0#64
  cmd := 0#8
  status := 0#8
  seqStep := 0#4
  ft := Vector.replicate 256 FtEntry.empty
  queue := { entries := [], seq := 0 }
  tree := { node := Vector.replicate 511 Node.blank, cnt := 0#9, root := Config.null, valid := false }
  codes := { ct := Vector.replicate 256 Code.none, valid := false }
  bw := BitWriter.init
  br := BitReader.init
  hdr := { magic := 0#16, size := 0#64, num := 0#8, pad := 0#8,
           ent := Vector.replicate 255 HdrEntry.blank, valid := false }
  dec := { cur := Config.null, count := 0#64, valid := false }
  src := { mem := [], len := 0#64, pos := 0#64 }
  sink := { mem := [], len := 0#64, pos := 0#64 }
  env := { tieRank := [], ioFaults := [], ioAsked := 0 }
  host := []

end Sys2Proof.Machine
end

