-- ==== Sys2Proof/Machine/Ops.lean ====
section
/-! DEFINITION. The named operations over registers, memory and the environment, the raising of a fault
(60_exceptions.md R175 to R183), and what a command is: a computation over State that keeps every write made before a raise. -/
namespace Sys2Proof.Machine

/-! ### Bytes and fields -/

/-- The high-to-low bytes of an n-byte number, most significant first (20_memory.md R42, R43). -/
def beBytes : Nat → Nat → List Byte
  | 0, _ => []
  | n + 1, v => BitVec.ofNat 8 (v / 256 ^ n) :: beBytes n v

/-- The number whose bytes, most significant first, are the list (20_memory.md R43). -/
def beValue (bs : List Byte) : Nat := bs.foldl (fun acc b => acc * 256 + b.toNat) 0

/-- BE64_bytes (20_memory.md R43). -/
def be64Bytes (v : Word) : List Byte := beBytes 8 v.toNat

/-- BE32_bytes (20_memory.md R43). -/
def be32Bytes (v : Count) : List Byte := beBytes 4 v.toNat

/-- BE64_value (20_memory.md R43). -/
def be64Value (bs : List Byte) : Word := BitVec.ofNat 64 (beValue bs)

/-- BE32_value (20_memory.md R43). -/
def be32Value (bs : List Byte) : Count := BitVec.ofNat 32 (beValue bs)

/-! ### Memory -/

/-- One byte of a space; an unlisted offset reads as `Config.blankByte` (log 5). -/
def memRead : Memory → Nat → Byte
  | [], _ => Config.blankByte
  | (k, v) :: m, a => if a = k then v else memRead m a

/-- Put an entry in front, unless it holds what an unlisted offset reads as. -/
def memCons (a : Nat) (b : Byte) (m : Memory) : Memory := if b = Config.blankByte then m else (a, b) :: m

/-- Write one byte of a space, keeping the canonical form. -/
def memWrite : Memory → Nat → Byte → Memory
  | [], a, b => memCons a b []
  | (k, v) :: m, a, b =>
    if a < k then memCons a b ((k, v) :: m)
    else if a = k then memCons a b m
    else (k, v) :: memWrite m a b

/-- The bytes at offsets first, first + 1, ... of a space. -/
def memBytes (m : Memory) (first : Nat) : Nat → List Byte
  | 0 => []
  | n + 1 => memRead m first :: memBytes m (first + 1) n

/-- What the host reads of OUT: OUT[0 .. OUT_LEN - 1] (20_memory.md R41, 10_state.md R29). -/
def outBytes (s : State) : List Byte := memBytes s.sink.mem 0 s.sink.len.toNat

/-- The input: IN[0 .. IN_LEN - 1] (20_memory.md R40). -/
def inBytes (s : State) : List Byte := memBytes s.src.mem 0 s.src.len.toNat

/-! ### Tables -/

/-- FT[s] (10_state.md R15). -/
def ftAt (ft : Vector FtEntry 256) (s : Byte) : FtEntry := ft[s.toNat]'s.isLt

/-- FT[s] written. -/
def ftPut (ft : Vector FtEntry 256) (s : Byte) (e : FtEntry) : Vector FtEntry 256 := ft.set s.toNat e s.isLt

/-- The empty table (40_frequency_table.md R80). -/
def ftEmpty : Vector FtEntry 256 := Vector.replicate 256 FtEntry.empty

/-- The byte values 0 to 255 in ascending order. -/
def allSyms : List Byte := (List.range 256).map (BitVec.ofNat 8)

/-- The symbols in the table, ascending: those with present = 1 (10_state.md R15). -/
def presentSyms (ft : Vector FtEntry 256) : List Byte := allSyms.filter fun s => (ftAt ft s).present

/-- FT_N, the number of symbols in the table (10_state.md R15). -/
def ftN (ft : Vector FtEntry 256) : Nat := (presentSyms ft).length

/-- CT[s] (10_state.md R19). -/
def ctAt (ct : Vector Code 256) (s : Byte) : Code := ct[s.toNat]'s.isLt

/-- CT[s] written. -/
def ctPut (ct : Vector Code 256) (s : Byte) (c : Code) : Vector Code 256 := ct.set s.toNat c s.isLt

/-- A table without codes (43_code_generator.md R105). -/
def ctEmpty : Vector Code 256 := Vector.replicate 256 Code.none

/-- NODE[i]; index 0x1FF names no record (10_state.md R17). -/
def nodeAt (node : Vector Node 511) (i : NodeIx) : Option Node := node[i.toNat]?

/-- NODE[i] written. -/
def nodePut (node : Vector Node 511) (i : NodeIx) (n : Node) : Vector Node 511 := node.setIfInBounds i.toNat n

/-- HDR_ENT[i] written (10_state.md R22). -/
def hdrEntPut (ent : Vector HdrEntry 255) (i : Nat) (e : HdrEntry) : Vector HdrEntry 255 := ent.setIfInBounds i e

/-! ### Updates of the state, one name each -/

/-- SEQ_STEP <- n (10_state.md R12). -/
def State.setSeqStep (s : State) (n : BitVec 4) : State := { s with seqStep := n }

/-- STATUS <- v (10_state.md R13). -/
def State.setStatus (s : State) (v : Byte) : State := { s with status := v }

/-- R0 <- v (10_state.md R10). -/
def State.setR0 (s : State) (v : Word) : State := { s with r0 := v }

/-- R1 <- v (10_state.md R10). -/
def State.setR1 (s : State) (v : Word) : State := { s with r1 := v }

/-- FT <- ft (10_state.md R15). -/
def State.setFt (s : State) (ft : Vector FtEntry 256) : State := { s with ft := ft }

/-- PQ and PQ_SEQ (10_state.md R16). -/
def State.setQueue (s : State) (q : Queue) : State := { s with queue := q }

/-- NODE, NODE_CNT, ROOT, ROOT_VALID (10_state.md R17, R18). -/
def State.setTree (s : State) (t : Tree) : State := { s with tree := t }

/-- CT and CT_VALID (10_state.md R19). -/
def State.setCodes (s : State) (c : Codes) : State := { s with codes := c }

/-- The BitWriter's registers (10_state.md R20). -/
def State.setBw (s : State) (w : BitWriter) : State := { s with bw := w }

/-- The BitReader's registers (10_state.md R21). -/
def State.setBr (s : State) (r : BitReader) : State := { s with br := r }

/-- The header registers (10_state.md R22). -/
def State.setHdr (s : State) (h : Header) : State := { s with hdr := h }

/-- The decoder registers (10_state.md R23). -/
def State.setDec (s : State) (d : Decoder) : State := { s with dec := d }

/-- IN with its length and cursor (10_state.md R24). -/
def State.setSrc (s : State) (x : Stream) : State := { s with src := x }

/-- OUT with its length and cursor (10_state.md R24). -/
def State.setSink (s : State) (x : Stream) : State := { s with sink := x }

/-- The environment's counter (log 7). -/
def State.setEnv (s : State) (e : Env) : State := { s with env := e }

/-! ### Faults of a command -/

/-- The code of an error kind (60_exceptions.md R176). -/
def ErrKind.code : ErrKind → Byte
  | .ioError => 0x01#8
  | .emptyInput => 0x02#8
  | .alphabetTooLarge => 0x03#8
  | .queueEmpty => 0x04#8
  | .emptyAlphabet => 0x05#8
  | .badMagic => 0x06#8
  | .truncatedHeader => 0x07#8
  | .truncatedStream => 0x08#8
  | .corruptHeader => 0x09#8
  | .corruptStream => 0x0A#8
  | .sizeMismatch => 0x0B#8
  | .contentMismatch => 0x0C#8
  | .endOfStream => 0x0D#8
  | .illegalCommand => 0x80#8
  | .freqOverflow => 0x81#8
  | .missingCode => 0x82#8
  | .badOperand => 0x83#8
  | .internalCheckFailed => 0x84#8
  | .notReady => 0x85#8

/-- The code of Ok (60_exceptions.md R176). -/
def statusOk : Byte := 0x00#8

/-- What ends a command early. -/
inductive Stop where
  /-- `raise E` (00_scope.md R6). -/
  | raised (e : ErrKind)
  /-- `raise IOError` for an access to the space (20_memory.md R56); the space decides SEQ_STEP in
  48_decode_traversal.md R162 (log 15). -/
  | ioFailed (space : Space)
  /-- The machine is stuck: a state no run reaches. -/
  | stuck (f : Fault)
deriving DecidableEq, Repr

/-- A command or a sub-step of one: it ends normally or with a stop, and keeps the writes made so far in both cases
(60_exceptions.md R181: nothing is rolled back). -/
abbrev Cmd (α : Type) := EStateM Stop State α

/-- The present state. -/
def getState : Cmd State := fun s => .ok s s

/-- A write. -/
def update (f : State → State) : Cmd Unit := fun s => .ok () (f s)

/-- `raise E` (00_scope.md R6). -/
def raise {α : Type} (e : ErrKind) : Cmd α := fun s => .error (.raised e) s

/-- The machine is stuck. -/
def stuckAt {α : Type} (f : Fault) : Cmd α := fun s => .error (.stuck f) s

/-- Taking a fault, such as it is: STATUS <- the code, and the block is idle again. No mode or mask changes, nothing is
saved and control goes nowhere; there is no return either, the host's next command overwrites STATUS
(60_exceptions.md R175, R183). -/
def takeFault (e : ErrKind) (s : State) : State := s.setStatus e.code

/-- STATUS is written once, at the command's end (10_state.md R13). -/
def finish : EStateM.Result Stop State Unit → Host.Outcome State Fault Refusal
  | .ok _ s => .next (s.setStatus statusOk)
  | .error (.raised e) s => .next (takeFault e s)
  | .error (.ioFailed _) s => .next (takeFault .ioError s)
  | .error (.stuck f) _ => .fault f

/-- A non-composite command issued by the host: it writes 0 to SEQ_STEP at its start (10_state.md R12, 00_scope.md R6). -/
def issue (body : Cmd Unit) (s : State) : Host.Outcome State Fault Refusal := finish (body (s.setSeqStep 0#4))

/-- A composite command issued by the host: it writes its own SEQ_STEP (10_state.md R12). -/
def issueComposite (body : Cmd Unit) (s : State) : Host.Outcome State Fault Refusal := finish (body s)

/-- A value of CMD that is no opcode: IllegalCommand, SEQ_STEP <- 0, nothing else (30_encoding.md R71). -/
def illegalCommand (s : State) : State := takeFault .illegalCommand (s.setSeqStep 0#4)

/-! ### The environment -/

/-- IO_FAULT for the access asked next (20_memory.md R56, log 7). -/
def ioFails (e : Env) (sp : Space) (off : Word) : Bool :=
  e.ioFaults.any fun f => f.space == sp && f.offset == off && (f.access == none || f.access == some e.ioAsked)

/-- One access was asked. -/
def Env.countAsk (e : Env) : Env := { e with ioAsked := e.ioAsked + 1 }

/-- IO_FAULT is asked once per byte access, before the access; true ends the command with IOError (20_memory.md R56). -/
def askIo (sp : Space) (off : Word) : Cmd Unit := fun s =>
  if ioFails s.env sp off then .error (.ioFailed sp) (s.setEnv s.env.countAsk)
  else .ok () (s.setEnv s.env.countAsk)

/-- Where TIEBREAK ranks an entry: its place in the list, unlisted entries last (log 6). -/
def tieRankOf (e : Env) (x : PqEntry) : Nat := e.tieRank.idxOf x

/-- x comes out before y: lower priority first, then TIEBREAK, whose default is insertion order
(41_priority_queue.md R85, R86; log 6). -/
def pqBefore (e : Env) (x y : PqEntry) : Bool :=
  decide (x.prio < y.prio ∨ x.prio = y.prio ∧
    (tieRankOf e x < tieRankOf e y ∨ tieRankOf e x = tieRankOf e y ∧
      (x.seq < y.seq ∨ x.seq = y.seq ∧ x.value < y.value)))

/-! ### The access primitives -/

/-- The source with its cursor moved past one byte. -/
def Stream.advance (x : Stream) : Stream := { x with pos := x.pos + 1#64 }

/-- SrcByte() (20_memory.md R47): none at the end of the source. -/
def srcByte : Cmd (Option Byte) := do
  let s ← getState
  if s.src.len ≤ s.src.pos then pure none
  else do
    askIo .inp s.src.pos
    update fun t => t.setSrc t.src.advance
    pure (some (memRead s.src.mem s.src.pos.toNat))

/-- OUT_POS + 1; past the last 64-bit value the spec states none, and it is a free value (log 9). -/
def nextOutPos (e : Env) (pos : Word) : Word :=
  if pos = BitVec.allOnes 64 then Config.outPosPastEnd e.ioAsked else pos + 1#64

/-- The sink after the byte v is written at its cursor (20_memory.md R48). -/
def Stream.append (x : Stream) (e : Env) (v : Byte) : Stream :=
  { mem := memWrite x.mem x.pos.toNat v
    pos := nextOutPos e x.pos
    len := if x.len < nextOutPos e x.pos then nextOutPos e x.pos else x.len }

/-- SinkByte(v) (20_memory.md R48). -/
def sinkByte (v : Byte) : Cmd Unit := do
  let s ← getState
  askIo .out s.sink.pos
  update fun t => t.setSink (t.sink.append t.env v)

/-- SinkByte of each byte in turn. -/
def sinkBytes : List Byte → Cmd Unit
  | [] => pure ()
  | b :: bs => do
    sinkByte b
    sinkBytes bs

/-- The sink after the byte at off is overwritten; the cursor and the length stay (20_memory.md R49). -/
def Stream.patch (x : Stream) (off : Word) (v : Byte) : Stream := { x with mem := memWrite x.mem off.toNat v }

/-- SinkPatch(off, v) (20_memory.md R49). -/
def sinkPatch (off : Word) (v : Byte) : Cmd Unit := do
  askIo .out off
  update fun t => t.setSink (t.sink.patch off v)

/-- A record of the arena; a NULL index names none (10_state.md R17, log 12). -/
def readNode (i : NodeIx) : Cmd Node := do
  let s ← getState
  match nodeAt s.tree.node i with
  | some n => pure n
  | none => stuckAt .nodeOutOfArena

/-! ### What the host does between commands -/

/-- The reset event (70_reset_and_hazards.md R200, R201): IN, IN_LEN and the bytes of OUT stay; NODE and HDR_ENT, which
the spec leaves unspecified, take the values of State.reset (log 21). -/
def resetEvent (s : State) : State :=
  { State.reset with
    src := { State.reset.src with mem := s.src.mem, len := s.src.len }
    sink := { State.reset.sink with mem := s.sink.mem }
    env := s.env
    host := s.host }

/-- How the host issues an encoded line: the opcode alone is a write of CMD and leaves A and B as they are; a triple is a
write of A, then of B, then of CMD (30_encoding.md R73, 70_reset_and_hazards.md R205; log 24). -/
def encodingActions : Encoding → List HostAction
  | .opcode op => [.writeCmd op]
  | .triple op a b => [.writeA a, .writeB b, .writeCmd op]

/-- The host actions a program line stands for (30_encoding.md R73). -/
def lineActions (l : Line) : List HostAction := encodingActions (encodeLine l)

/-- What the host's next action asks of the block. -/
inductive HostEvent where
  /-- No action is pending: the block is idle (log 2). -/
  | idle
  /-- A register, a byte of IN or the reset: done, without the block running. -/
  | wrote (s : State)
  /-- CMD was written: a command is to run. -/
  | command (c : Byte) (s : State)
deriving DecidableEq, Repr

/-- Take the host's next action (10_state.md R11, R29). -/
def takeHost (s : State) : HostEvent :=
  match s.host with
  | [] => .idle
  | .writeA v :: rest => .wrote { s with a := v, host := rest }
  | .writeB v :: rest => .wrote { s with b := v, host := rest }
  | .writeCmd c :: rest => .command c { s with cmd := c, host := rest }
  | .writeInLen v :: rest => .wrote { s with src := { s.src with len := v }, host := rest }
  | .writeIn off v :: rest => .wrote { s with src := { s.src with mem := memWrite s.src.mem off.toNat v }, host := rest }
  | .reset :: rest => .wrote (resetEvent { s with host := rest })

/-- The host's next action is to write CMD. -/
def pushCommand (s : State) (c : Byte) : State := { s with host := .writeCmd c :: s.host }

end Sys2Proof.Machine
end

