-- ==== Sys2Proof/Machine/Flags.lean ====
section
/-! DEFINITION. The validity flags and their discipline (10_state.md R14, R26). -/
namespace Sys2Proof.Machine

/-- ROOT_VALID, CT_VALID, DEC_VALID <- 0: what every command that writes FT, and TB_BUILD, does at its start
(10_state.md R26). -/
def State.dropTree (s : State) : State :=
  ((s.setTree { s.tree with valid := false }).setCodes { s.codes with valid := false }).setDec
    { s.dec with valid := false }

/-- ROOT_VALID <- v (10_state.md R14). -/
def State.setRootValid (s : State) (v : Bool) : State := s.setTree { s.tree with valid := v }

/-- CT_VALID <- v (10_state.md R14). -/
def State.setCtValid (s : State) (v : Bool) : State := s.setCodes { s.codes with valid := v }

/-- HDR_VALID <- v (10_state.md R14). -/
def State.setHdrValid (s : State) (v : Bool) : State := s.setHdr { s.hdr with valid := v }

/-- BR_FINISHED <- 1 (10_state.md R14, 45_bit_reader.md R126). -/
def State.setFinished (s : State) : State := s.setBr { s.br with finished := true }

/-- A command that needs a flag and finds it 0 raises NotReady and changes nothing else (10_state.md R26,
60_exceptions.md R178). -/
def need (flag : State → Bool) : Cmd Unit := fun s =>
  if flag s then .ok () s else .error (.raised .notReady) s

/-- The need of CG_GENERATE and DEC_INIT (10_state.md R26). -/
def hasTree (s : State) : Bool := s.tree.valid

/-- The need of CG_VERIFY and ENCODE_STREAM (10_state.md R26). -/
def hasCodes (s : State) : Bool := s.codes.valid

/-- The need of DEC_STEP (10_state.md R26). -/
def hasDecoder (s : State) : Bool := s.dec.valid

/-- The need of DEC_STREAM (10_state.md R26). -/
def hasDecoderAndHeader (s : State) : Bool := s.dec.valid && s.hdr.valid

end Sys2Proof.Machine
end

