-- ==== Sys2Proof/Machine/BitUnpacker.lean ====
section
/-! DEFINITION. The bit-stream unpacker BR_INIT, BR_READ_BIT (45_bit_reader.md). -/
namespace Sys2Proof.Machine

/-- BR_INIT as a sub-step (45_bit_reader.md R125). -/
def brInit : Cmd Unit := update fun s => s.setBr BitReader.init

/-- The fetch of ReadBit (45_bit_reader.md R126): once the end was observed the source is not asked again (R127). -/
def refill : Cmd Unit := do
  let s ← getState
  if s.br.finished then raise .endOfStream
  else do
    match ← srcByte with
    | none => do
      update State.setFinished
      raise .endOfStream
    | some v => update fun t => t.setBr { t.br with cur := v, left := 8#4 }

/-- The next bit of BR_CUR, most significant first (45_bit_reader.md R126); BR_LEFT above 8 names no bit (log 14). -/
def takeBit : Cmd Bool := do
  let s ← getState
  if 8#4 < s.br.left then stuckAt .bitOutOfByte
  else do
    update fun t => t.setBr { t.br with left := t.br.left - 1#4 }
    pure (s.br.cur.getLsbD (s.br.left.toNat - 1))

/-- ReadBit() (45_bit_reader.md R126). -/
def readBit : Cmd Bool := do
  let s ← getState
  if s.br.left = 0#4 then do
    refill
    takeBit
  else takeBit

/-- BR_INIT (45_bit_reader.md R125). -/
def execBrInit (s : State) : Host.Outcome State Fault Refusal := issue brInit s

/-- A bit as a 64-bit result. -/
def bitWord (b : Bool) : Word := if b then 1#64 else 0#64

/-- BR_READ_BIT (45_bit_reader.md R126). -/
def execBrReadBit (s : State) : Host.Outcome State Fault Refusal :=
  issue (do let b ← readBit; update fun t => t.setR0 (bitWord b)) s

end Sys2Proof.Machine
end

