-- ==== Sys2Proof/Machine/Operands.lean ====
section
/-! DEFINITION. The operand slices of A and B (30_encoding.md R69): unsigned, from bit 0 up, the other bits ignored. -/
namespace Sys2Proof.Machine

/-- symbol = A[7:0] of FT_SET (30_encoding.md R69). -/
def opSymbol (s : State) : Byte := s.a.setWidth 8

/-- count = B[31:0] of FT_SET (30_encoding.md R69). -/
def opCount (s : State) : Count := s.b.setWidth 32

/-- value = A[15:0] of PQ_INSERT (30_encoding.md R69). -/
def opValue (s : State) : BitVec 16 := s.a.setWidth 16

/-- priority = B[63:0] of PQ_INSERT (30_encoding.md R69). -/
def opPriority (s : State) : Word := s.b

/-- bit = A[0] of BW_WRITE_BIT (30_encoding.md R69). -/
def opBit (s : State) : Bool := s.a.getLsbD 0

/-- value = A[255:0] of BW_WRITE_BITS (30_encoding.md R69). -/
def opPattern (s : State) : Pattern := s.a

/-- length = B[63:0] of BW_WRITE_BITS (30_encoding.md R69). -/
def opLength (s : State) : Nat := s.b.toNat

/-- paddingBits = A[7:0] of CF_WRITE_HEADER and PATCH_PADDING (30_encoding.md R69). -/
def opPadding (s : State) : Byte := s.a.setWidth 8

/-- originalSize = B[63:0] of CF_WRITE_HEADER (30_encoding.md R69). -/
def opSize (s : State) : Word := s.b

end Sys2Proof.Machine
end

