-- ==== Sys2Proof/Machine/BitPacker.lean ====
section
/-! DEFINITION. The bit-stream packer BW_INIT, BW_WRITE_BIT, BW_WRITE_BITS, BW_CLOSE (44_bit_writer.md). -/
namespace Sys2Proof.Machine

/-- BW_INIT as a sub-step (44_bit_writer.md R115). -/
def bwInit : Cmd Unit := update fun s => s.setBw BitWriter.init

/-- v with bit i written. -/
def putBit (v : Byte) (i : Nat) (b : Bool) : Byte :=
  if b then v ||| (1#8 <<< i) else v &&& ~~~(1#8 <<< i)

/-- BW_CUR[7 - BW_NBITS] <- b; BW_TOTAL <- BW_TOTAL + 1 (44_bit_writer.md R116). -/
def BitWriter.place (w : BitWriter) (b : Bool) : BitWriter :=
  { w with cur := putBit w.cur (7 - w.nbits.toNat) b, total := w.total + 1 }

/-- BW_CUR, BW_NBITS <- 0: the byte is out (44_bit_writer.md R116, R118). -/
def BitWriter.flushed (w : BitWriter) : BitWriter := { w with cur := 0#8, nbits := 0#3 }

/-- WriteBit(b) (44_bit_writer.md R116): the eighth bit of a byte sends it to the sink. -/
def writeBit (b : Bool) : Cmd Unit := do
  update fun s => s.setBw (s.bw.place b)
  let s ← getState
  if s.bw.nbits = 7#3 then do
    sinkByte s.bw.cur
    update fun t => t.setBw t.bw.flushed
  else update fun t => t.setBw { t.bw with nbits := t.bw.nbits + 1#3 }

/-- Bits i, i + 1, ... of the value, n of them (44_bit_writer.md R117). -/
def writeBitsFrom (value : Pattern) : Nat → Nat → Cmd Unit
  | _, 0 => pure ()
  | i, n + 1 => do
    writeBit (value.getLsbD i)
    writeBitsFrom value (i + 1) n

/-- WriteBits(value, length): bit 0 first (44_bit_writer.md R117). -/
def writeBits (value : Pattern) (length : Nat) : Cmd Unit := writeBitsFrom value 0 length

/-- BW_WRITE_BITS as a sub-step: a length above 256 is a bad operand (44_bit_writer.md R117). -/
def bwWriteBits (value : Pattern) (length : Nat) : Cmd Unit :=
  if 256 < length then raise .badOperand else writeBits value length

/-- Close() (44_bit_writer.md R118): the number of padding bits added, 0 to 7. -/
def bwClose : Cmd Byte := do
  let s ← getState
  if s.bw.nbits = 0#3 then pure 0#8
  else do
    sinkByte s.bw.cur
    update fun t => t.setBw t.bw.flushed
    pure (8#8 - s.bw.nbits.setWidth 8)

/-- BW_INIT (44_bit_writer.md R115). -/
def execBwInit (s : State) : Host.Outcome State Fault Refusal := issue bwInit s

/-- BW_WRITE_BIT (44_bit_writer.md R116). -/
def execBwWriteBit (s : State) : Host.Outcome State Fault Refusal := issue (writeBit (opBit s)) s

/-- BW_WRITE_BITS (44_bit_writer.md R117). -/
def execBwWriteBits (s : State) : Host.Outcome State Fault Refusal := issue (bwWriteBits (opPattern s) (opLength s)) s

/-- BW_CLOSE (44_bit_writer.md R118). -/
def execBwClose (s : State) : Host.Outcome State Fault Refusal :=
  issue (do let pad ← bwClose; update fun t => t.setR0 (pad.setWidth 64)) s

end Sys2Proof.Machine
end

