-- ==== Sys2Proof/Machine/CodeGenerator.lean ====
section
/-! DEFINITION. The code generator CG_GENERATE, CG_VERIFY (43_code_generator.md). -/
namespace Sys2Proof.Machine

/-- CT[s] <- c (10_state.md R19). -/
def setCode (s : Byte) (c : Code) : Cmd Unit :=
  update fun t => t.setCodes { t.codes with ct := ctPut t.codes.ct s c }

/-- IsPrefix(c, d) (43_code_generator.md R108). -/
def isPrefix (c d : Code) : Bool :=
  decide (c.len ≤ d.len) && (List.range c.len.toNat).all fun i => c.bits.getLsbD i == d.bits.getLsbD i

/-- Every code has a length of at least 1 (43_code_generator.md R108). -/
def codesHaveLength (ct : Vector Code 256) : Bool :=
  allSyms.all fun s => !((ctAt ct s).valid && (ctAt ct s).len == 0#8)

/-- No code is a prefix of another, equal codes included (43_code_generator.md R108, 90_conflicts.md C4). -/
def codesPrefixFree (ct : Vector Code 256) : Bool :=
  allSyms.all fun s => !(ctAt ct s).valid ||
    allSyms.all fun t => !(s != t && (ctAt ct t).valid && isPrefix (ctAt ct s) (ctAt ct t))

/-- The post-condition of the code table (43_code_generator.md R108). -/
def codesOk (ct : Vector Code 256) : Bool := codesHaveLength ct && codesPrefixFree ct

/-- CheckCodes() (43_code_generator.md R108). -/
def checkCodes : Cmd Unit := fun s =>
  if codesOk s.codes.ct then .ok () s else .error (.raised .internalCheckFailed) s

/-- Walk(i, bits, depth) (43_code_generator.md R106). The first argument is how many nodes the path may still have: R106
gives the depth the range 0 to 255, and it runs out at depth 256, in no tree of R27 (log 13). -/
def walk : Nat → NodeIx → Pattern → Nat → Cmd Unit
  | 0, _, _, _ => stuckAt .treeTooDeep
  | k + 1, i, bits, depth => do
    let nd ← readNode i
    match nd.kind with
    | .leaf =>
      if nd.filler then pure ()
      else setCode nd.sym { valid := true, len := BitVec.ofNat 8 depth, bits := bits }
    | .internal => do
      walk k nd.left bits (depth + 1)
      walk k nd.right (bits ||| (1#256 <<< depth)) (depth + 1)

/-- AssignSingle(L, Rt) (43_code_generator.md R107): the real leaf gets one bit, 0 on the left and 1 on the right. -/
def assignSingle (l r : Node) : Cmd Unit :=
  if r.filler && !l.filler then setCode l.sym { valid := true, len := 1#8, bits := 0#256 }
  else if l.filler && !r.filler then setCode r.sym { valid := true, len := 1#8, bits := 1#256 }
  else pure ()

/-- Both children of the root are leaves and one is the filler (43_code_generator.md R105, R107). -/
def isSingle (l r : Node) : Bool := l.kind == .leaf && r.kind == .leaf && (l.filler || r.filler)

/-- The codes of the tree below the root, whose children are l and r (43_code_generator.md R105). -/
def assignCodes (root : NodeIx) (l r : Node) : Cmd Unit :=
  if isSingle l r then assignSingle l r else walk Config.pathMax root 0#256 0

/-- CG_GENERATE as a sub-step (43_code_generator.md R105). -/
def cgGenerate : Cmd Unit := do
  need hasTree
  update fun s => s.setCodes { ct := ctEmpty, valid := false }
  let s ← getState
  let root ← readNode s.tree.root
  let l ← readNode root.left
  let r ← readNode root.right
  assignCodes s.tree.root l r
  checkCodes
  update fun t => t.setCtValid true

/-- CG_VERIFY as a sub-step (43_code_generator.md R109). -/
def cgVerify : Cmd Unit := do
  need hasCodes
  checkCodes

/-- CG_GENERATE (43_code_generator.md R105). -/
def execCgGenerate (s : State) : Host.Outcome State Fault Refusal := issue cgGenerate s

/-- CG_VERIFY (43_code_generator.md R109). -/
def execCgVerify (s : State) : Host.Outcome State Fault Refusal := issue cgVerify s

end Sys2Proof.Machine
end

