-- ==== Sys2Proof/Machine/Container.lean ====
section
/-! DEFINITION. The container format CF_WRITE_HEADER, CF_READ_HEADER (46_container_format.md; layout 30_encoding.md R60). -/
namespace Sys2Proof.Machine

/-- One entry of a header: the symbol, then its frequency big-endian (30_encoding.md R65). -/
def entryBytes (ft : Vector FtEntry 256) (s : Byte) : List Byte := s :: be32Bytes (ftAt ft s).count

/-- The 12 + 5n bytes of a header, in field order, the entries ascending (30_encoding.md R60, 46_container_format.md R131). -/
def headerBytes (ft : Vector FtEntry 256) (size : Word) (pad : Byte) : List Byte :=
  [Config.magic0, Config.magic1] ++ be64Bytes size ++ [BitVec.ofNat 8 (ftN ft), pad] ++
    (presentSyms ft).flatMap (entryBytes ft)

/-- CF_WRITE_HEADER as a sub-step: the refusals of R132, then the bytes (46_container_format.md R131). -/
def cfWriteHeader (pad : Byte) (size : Word) : Cmd Unit := do
  let s ← getState
  if Config.maxSyms < ftN s.ft then raise .alphabetTooLarge
  else if 7#8 < pad then raise .badOperand
  else sinkBytes (headerBytes s.ft size pad)

/-- Need(): one byte that must be there (46_container_format.md R133). -/
def needByte : Cmd Byte := do
  match ← srcByte with
  | none => raise .truncatedHeader
  | some v => pure v

/-- n bytes that must be there, in the order read. -/
def needBytes : Nat → Cmd (List Byte)
  | 0 => pure []
  | n + 1 => do
    let b ← needByte
    let bs ← needBytes n
    pure (b :: bs)

/-- Entry i read and committed to HDR_ENT and FT once all its five bytes are in (46_container_format.md R133, R134, R136). -/
def readEntry (i : Nat) : Cmd Unit := do
  let sym ← needByte
  let f ← needBytes 4
  update fun s => (s.setHdr { s.hdr with ent := hdrEntPut s.hdr.ent i { sym := sym, freq := be32Value f } }).setFt
    (ftPut s.ft sym { present := true, count := be32Value f })

/-- Entries i, i + 1, ..., n of them (46_container_format.md R133). -/
def readEntries : Nat → Nat → Cmd Unit
  | _, 0 => pure ()
  | i, n + 1 => do
    readEntry i
    readEntries (i + 1) n

/-- What CF_READ_HEADER clears at its start: the four flags and FT (46_container_format.md R133, 10_state.md R26). -/
def clearForHeader (s : State) : State := (s.dropTree.setHdrValid false).setFt ftEmpty

/-- The fields after the magic (46_container_format.md R133). -/
def readFields : Cmd Unit := do
  let z ← needBytes 8
  update fun s => s.setHdr { s.hdr with size := be64Value z }
  let n ← needByte
  update fun s => s.setHdr { s.hdr with num := n }
  let p ← needByte
  update fun s => s.setHdr { s.hdr with pad := p }
  readEntries 0 n.toNat
  update fun s => s.setHdrValid true

/-- CF_READ_HEADER as a sub-step (46_container_format.md R133); both magic bytes are read before they are judged (R136). -/
def cfReadHeader : Cmd Unit := do
  update clearForHeader
  let m0 ← needByte
  let m1 ← needByte
  update fun s => s.setHdr { s.hdr with magic := m0 ++ m1 }
  if m0 ≠ Config.magic0 ∨ m1 ≠ Config.magic1 then raise .badMagic
  else readFields

/-- CF_WRITE_HEADER (46_container_format.md R131). -/
def execCfWriteHeader (s : State) : Host.Outcome State Fault Refusal := issue (cfWriteHeader (opPadding s) (opSize s)) s

/-- CF_READ_HEADER (46_container_format.md R133). -/
def execCfReadHeader (s : State) : Host.Outcome State Fault Refusal := issue cfReadHeader s

end Sys2Proof.Machine
end

