-- ==== Sys2Proof/Machine/Stream.lean ====
section
/-! DEFINITION. The stream commands SRC_OPEN and SINK_OPEN (20_memory.md R51, R53). -/
namespace Sys2Proof.Machine

/-- SRC_OPEN as a sub-step: IN_POS <- 0 (20_memory.md R51). -/
def srcOpen : Cmd Unit := update fun s => s.setSrc { s.src with pos := 0#64 }

/-- SINK_OPEN as a sub-step: OUT_LEN, OUT_POS <- 0; the bytes stay (20_memory.md R53). -/
def sinkOpen : Cmd Unit := update fun s => s.setSink { s.sink with len := 0#64, pos := 0#64 }

/-- SRC_OPEN (20_memory.md R51). -/
def execSrcOpen (s : State) : Host.Outcome State Fault Refusal := issue srcOpen s

/-- SINK_OPEN (20_memory.md R53). -/
def execSinkOpen (s : State) : Host.Outcome State Fault Refusal := issue sinkOpen s

end Sys2Proof.Machine
end

