-- ==== Sys2Proof/Machine/Table.lean ====
section
/-! DEFINITION. The frequency-table commands FT_CLEAR, FT_SET, FREQ_SCAN (40_frequency_table.md). -/
namespace Sys2Proof.Machine

/-- FT_CLEAR as a sub-step (40_frequency_table.md R80). -/
def ftClear : Cmd Unit := update fun s => s.dropTree.setFt ftEmpty

/-- FT_SET as a sub-step (40_frequency_table.md R81). -/
def ftSet (sym : Byte) (count : Count) : Cmd Unit :=
  update fun s => s.dropTree.setFt (ftPut s.ft sym { present := true, count := count })

/-- Count one occurrence of v; a count at 2^32 - 1 raises FreqOverflow instead of wrapping
(40_frequency_table.md R82, R83). -/
def countByte (v : Byte) : Cmd Unit := fun s =>
  if (ftAt s.ft v).count = BitVec.allOnes 32 then .error (.raised .freqOverflow) s
  else .ok () (s.setFt (ftPut s.ft v { present := true, count := (ftAt s.ft v).count + 1#32 }))

/-- How many bytes of the source are unread: the bound of every loop that reads to its end (70_reset_and_hazards.md R210). -/
def bytesLeft (s : State) : Nat := s.src.len.toNat - s.src.pos.toNat

/-- The loop of FREQ_SCAN (40_frequency_table.md R82). The bound is `bytesLeft`, so at 0 the source is at its end. -/
def scanLoop : Nat → Word → Cmd Word
  | 0, n => pure n
  | k + 1, n => do
    match ← srcByte with
    | none => pure n
    | some v => do
      countByte v
      scanLoop k (n + 1#64)

/-- FREQ_SCAN as a sub-step; the result is the number of bytes scanned (40_frequency_table.md R82). -/
def freqScan : Cmd Word := do
  ftClear
  let s ← getState
  scanLoop (bytesLeft s) 0#64

/-- FT_CLEAR (40_frequency_table.md R80). -/
def execFtClear (s : State) : Host.Outcome State Fault Refusal := issue ftClear s

/-- FT_SET (40_frequency_table.md R81). -/
def execFtSet (s : State) : Host.Outcome State Fault Refusal := issue (ftSet (opSymbol s) (opCount s)) s

/-- FREQ_SCAN (40_frequency_table.md R82). -/
def execFreqScan (s : State) : Host.Outcome State Fault Refusal :=
  issue (do let n ← freqScan; update fun t => t.setR0 n) s

end Sys2Proof.Machine
end

