-- ==== Sys2Proof/Machine/PriorityQueue.lean ====
section
/-! DEFINITION. The priority-queue commands PQ_INIT, PQ_INSERT, PQ_EXTRACT_MIN, PQ_PEEK, PQ_SIZE, PQ_IS_EMPTY
(41_priority_queue.md). -/
namespace Sys2Proof.Machine

/-- The least of e and the entries of the list (41_priority_queue.md R86). -/
def minFrom (env : Env) : PqEntry → List PqEntry → PqEntry
  | e, [] => e
  | e, f :: fs => if pqBefore env f e then minFrom env f fs else minFrom env e fs

/-- MinEntry(PQ), none when the queue is empty (41_priority_queue.md R86). -/
def minEntry (env : Env) : List PqEntry → Option PqEntry
  | [] => none
  | e :: es => some (minFrom env e es)

/-- PQ_INIT as a sub-step (41_priority_queue.md R87). -/
def pqInit : Cmd Unit := update fun s => s.setQueue { entries := [], seq := 0 }

/-- PQ_INSERT as a sub-step (41_priority_queue.md R88). -/
def pqInsert (value : BitVec 16) (prio : Word) : Cmd Unit :=
  update fun s => s.setQueue
    { entries := s.queue.entries ++ [{ value := value, prio := prio, seq := s.queue.seq }], seq := s.queue.seq + 1 }

/-- PQ_PEEK as a sub-step (41_priority_queue.md R90). -/
def pqPeek : Cmd PqEntry := do
  let s ← getState
  match minEntry s.env s.queue.entries with
  | none => raise .queueEmpty
  | some e => pure e

/-- PQ_EXTRACT_MIN as a sub-step (41_priority_queue.md R89); `PQ without e` takes one entry out (log 19). -/
def pqExtractMin : Cmd PqEntry := do
  let s ← getState
  match minEntry s.env s.queue.entries with
  | none => raise .queueEmpty
  | some e => do
    update fun t => t.setQueue { t.queue with entries := t.queue.entries.erase e }
    pure e

/-- R0 and R1 of PQ_EXTRACT_MIN and PQ_PEEK: the value zero-extended and the priority (41_priority_queue.md R89, R90). -/
def giveEntry (e : PqEntry) : Cmd Unit := update fun s => (s.setR0 (e.value.setWidth 64)).setR1 e.prio

/-- A size as a 64-bit result; beyond 2^64 - 1 the spec states none (log 11). -/
def sizeWord (n : Nat) : Word := if n < 2 ^ 64 then BitVec.ofNat 64 n else Config.pqSizePastEnd n

/-- PQ_INIT (41_priority_queue.md R87). -/
def execPqInit (s : State) : Host.Outcome State Fault Refusal := issue pqInit s

/-- PQ_INSERT (41_priority_queue.md R88). -/
def execPqInsert (s : State) : Host.Outcome State Fault Refusal := issue (pqInsert (opValue s) (opPriority s)) s

/-- PQ_EXTRACT_MIN (41_priority_queue.md R89). -/
def execPqExtractMin (s : State) : Host.Outcome State Fault Refusal := issue (do giveEntry (← pqExtractMin)) s

/-- PQ_PEEK (41_priority_queue.md R90). -/
def execPqPeek (s : State) : Host.Outcome State Fault Refusal := issue (do giveEntry (← pqPeek)) s

/-- PQ_SIZE (41_priority_queue.md R91). -/
def execPqSize (s : State) : Host.Outcome State Fault Refusal :=
  issue (update fun t => t.setR0 (sizeWord t.queue.entries.length)) s

/-- PQ_IS_EMPTY (41_priority_queue.md R92). -/
def execPqIsEmpty (s : State) : Host.Outcome State Fault Refusal :=
  issue (update fun t => t.setR0 (if t.queue.entries.length = 0 then 1#64 else 0#64)) s

end Sys2Proof.Machine
end

