-- ==== Sys2Proof/Machine/TreeBuilder.lean ====
section
/-! DEFINITION. The tree builder TB_BUILD (42_tree_builder.md). -/
namespace Sys2Proof.Machine

/-- A Leaf record (10_state.md R17, 42_tree_builder.md R96, R97). -/
def leafNode (sym : Byte) (count : Count) : Node :=
  { kind := .leaf, filler := false, sym := sym, freq := count.setWidth 64, left := Config.null, right := Config.null }

/-- The synthetic filler leaf of the single-symbol tree (42_tree_builder.md R96). -/
def fillerNode : Node :=
  { kind := .leaf, filler := true, sym := 0#8, freq := 0#64, left := Config.null, right := Config.null }

/-- An Internal record (10_state.md R17, 42_tree_builder.md R96, R97). -/
def internalNode (freq : Word) (left right : NodeIx) : Node :=
  { kind := .internal, filler := false, sym := 0#8, freq := freq, left := left, right := right }

/-- NODE[NODE_CNT] <- n; NODE_CNT <- NODE_CNT + 1. -/
def Tree.add (t : Tree) (n : Node) : Tree := { t with node := nodePut t.node t.cnt n, cnt := t.cnt + 1#9 }

/-- ROOT <- r (10_state.md R18). -/
def setRoot (r : NodeIx) : Cmd Unit := update fun s => s.setTree { s.tree with root := r }

/-- Add a record and put its index into the queue with its frequency as priority (42_tree_builder.md R97). -/
def addAndQueue (n : Node) : Cmd Unit := do
  let s ← getState
  update fun t => t.setTree (t.tree.add n)
  pqInsert (s.tree.cnt.setWidth 16) n.freq

/-- The leaves, in the order of the list (42_tree_builder.md R97). -/
def addLeaves : List Byte → Cmd Unit
  | [] => pure ()
  | sym :: syms => do
    let s ← getState
    addAndQueue (leafNode sym (ftAt s.ft sym).count)
    addLeaves syms

/-- One combination: the node extracted first becomes the left child (42_tree_builder.md R97, R98). -/
def combine : Cmd Unit := do
  let a ← pqExtractMin
  let b ← pqExtractMin
  addAndQueue (internalNode (a.prio + b.prio) (a.value.setWidth 9) (b.value.setWidth 9))

/-- The loop `while |PQ| >= 2` (42_tree_builder.md R97). Each pass leaves one entry less, so the size bounds the passes. -/
def combineAll : Nat → Cmd Unit
  | 0 => pure ()
  | k + 1 => do
    let s ← getState
    if s.queue.entries.length < 2 then pure ()
    else do
      combine
      combineAll k

/-- BuildSingle (42_tree_builder.md R96): the real leaf on the left, the filler on the right. -/
def buildSingle (sym : Byte) : Cmd Unit := do
  let s ← getState
  let leaf := leafNode sym (ftAt s.ft sym).count
  update fun t => t.setTree (((t.tree.add leaf).add fillerNode).add
    (internalNode (leaf.freq + fillerNode.freq) 0#9 1#9))
  setRoot 2#9

/-- BuildGeneral (42_tree_builder.md R97). -/
def buildGeneral (syms : List Byte) : Cmd Unit := do
  addLeaves syms
  let s ← getState
  combineAll s.queue.entries.length
  let r ← pqExtractMin
  setRoot (r.value.setWidth 9)

/-- BuildSingle or BuildGeneral, by the number of symbols (42_tree_builder.md R95). -/
def buildFrom : List Byte → Cmd Unit
  | [sym] => buildSingle sym
  | syms => buildGeneral syms

/-- TB_BUILD as a sub-step (42_tree_builder.md R95). -/
def tbBuild : Cmd Unit := do
  update State.dropTree
  let s ← getState
  if ftN s.ft = 0 then raise .emptyAlphabet
  else do
    update fun t => t.setTree { t.tree with cnt := 0#9, root := Config.null }
    pqInit
    buildFrom (presentSyms s.ft)
    update fun t => t.setRootValid true

/-- TB_BUILD (42_tree_builder.md R95). -/
def execTbBuild (s : State) : Host.Outcome State Fault Refusal := issue tbBuild s

end Sys2Proof.Machine
end

