-- ==== Sys2Proof/Machine/Compressor.lean ====
section
/-! DEFINITION. The compression sequence COMPRESS, ENCODE_STREAM, PATCH_PADDING (47_compress_sequencer.md). -/
namespace Sys2Proof.Machine

/-- The code of one byte goes to the BitWriter; a byte without a code raises MissingCode (47_compress_sequencer.md R144). -/
def encodeByte (v : Byte) : Cmd Unit := do
  let s ← getState
  if (ctAt s.codes.ct v).valid then writeBits (ctAt s.codes.ct v).bits (ctAt s.codes.ct v).len.toNat
  else raise .missingCode

/-- The loop of ENCODE_STREAM (47_compress_sequencer.md R144). The bound is `bytesLeft`, so at 0 the source is at its end. -/
def encodeLoop : Nat → Cmd Unit
  | 0 => pure ()
  | k + 1 => do
    match ← srcByte with
    | none => pure ()
    | some v => do
      encodeByte v
      encodeLoop k

/-- ENCODE_STREAM as a sub-step (47_compress_sequencer.md R144). -/
def encodeStream : Cmd Unit := do
  need hasCodes
  let s ← getState
  encodeLoop (bytesLeft s)

/-- PATCH_PADDING as a sub-step (47_compress_sequencer.md R145; the order of its checks is 90_conflicts.md C7). -/
def patchPadding (pad : Byte) : Cmd Unit := do
  let s ← getState
  if 7#8 < pad then raise .badOperand
  else if s.sink.len ≤ Config.padOffset then raise .notReady
  else sinkPatch Config.padOffset pad

/-- SEQ_STEP <- n, a step of a composite command (10_state.md R12). -/
def seqStep (n : BitVec 4) : Cmd Unit := update fun s => s.setSeqStep n

/-- Steps 2 and 3 of COMPRESS: EmptyInput before AlphabetTooLarge (47_compress_sequencer.md R141, R142). -/
def checkAlphabet : Cmd Unit := do
  seqStep 2#4
  let s ← getState
  if ftN s.ft = 0 then raise .emptyInput
  else do
    seqStep 3#4
    if Config.maxSyms < ftN s.ft then raise .alphabetTooLarge else pure ()

/-- COMPRESS (47_compress_sequencer.md R141). -/
def compress : Cmd Unit := do
  seqStep 1#4
  srcOpen
  let size ← freqScan
  checkAlphabet
  seqStep 4#4
  tbBuild
  cgGenerate
  cgVerify
  seqStep 5#4
  sinkOpen
  cfWriteHeader 0#8 size
  seqStep 6#4
  srcOpen
  bwInit
  encodeStream
  seqStep 7#4
  let pad ← bwClose
  seqStep 8#4
  patchPadding pad
  seqStep 0#4

/-- COMPRESS (47_compress_sequencer.md R141). -/
def execCompress (s : State) : Host.Outcome State Fault Refusal := issueComposite compress s

/-- ENCODE_STREAM (47_compress_sequencer.md R144). -/
def execEncodeStream (s : State) : Host.Outcome State Fault Refusal := issue encodeStream s

/-- PATCH_PADDING (47_compress_sequencer.md R145). -/
def execPatchPadding (s : State) : Host.Outcome State Fault Refusal := issue (patchPadding (opPadding s)) s

end Sys2Proof.Machine
end

