-- ==== Sys2Proof/Machine/Decompressor.lean ====
section
/-! DEFINITION. The decode sequence and the tree traversal DECOMPRESS, DEC_INIT, DEC_STEP, DEC_STREAM
(48_decode_traversal.md). -/
namespace Sys2Proof.Machine

/-- DEC_INIT as a sub-step (48_decode_traversal.md R158). -/
def decInit : Cmd Unit := do
  need hasTree
  update fun s => s.setDec { cur := s.tree.root, count := 0#64, valid := true }

/-- ReadBit inside the decoder: EndOfStream becomes TruncatedStream, anything else goes through
(48_decode_traversal.md R157, 60_exceptions.md R184). -/
def decReadBit : Cmd Bool := fun s =>
  match readBit s with
  | .error (.raised .endOfStream) t => .error (.raised .truncatedStream) t
  | r => r

/-- DEC_COUNT + 1; past the last 64-bit value the spec states none, and it is a free value (log 10). -/
def nextDecCount (e : Env) (count : Word) : Word :=
  if count = BitVec.allOnes 64 then Config.decCountPastEnd e.ioAsked else count + 1#64

/-- The symbol of a leaf goes to OUT, the traversal returns to the root (48_decode_traversal.md R157). -/
def emitSymbol (sym : Byte) : Cmd (Option Byte) := do
  sinkByte sym
  update fun s => s.setDec { s.dec with count := nextDecCount s.env s.dec.count, cur := s.tree.root }
  pure (some sym)

/-- The traversal moves to node c (48_decode_traversal.md R157): none when no symbol was completed. -/
def descend (c : NodeIx) : Cmd (Option Byte) := do
  if c = Config.null then raise .corruptStream
  else do
    let ch ← readNode c
    match ch.kind with
    | .leaf => if ch.filler then raise .corruptStream else emitSymbol ch.sym
    | .internal => do
      update fun s => s.setDec { s.dec with cur := c }
      pure none

/-- DecStep() (48_decode_traversal.md R157): the symbol when this bit completed one. -/
def decStepBody : Cmd (Option Byte) := do
  let b ← decReadBit
  let s ← getState
  let nd ← readNode s.dec.cur
  descend (if b then nd.right else nd.left)

/-- DEC_STEP as a sub-step (48_decode_traversal.md R157). -/
def decStep : Cmd (Option Byte) := do
  need hasDecoder
  decStepBody

/-- R0 and R1 of DEC_STEP (48_decode_traversal.md R157). -/
def giveSymbol : Option Byte → Cmd Unit
  | none => update fun s => s.setR0 0#64
  | some sym => update fun s => (s.setR0 1#64).setR1 (sym.setWidth 64)

/-- How many bits the reader can still give: the bound of the decode loop (48_decode_traversal.md R159). -/
def bitsLeft (s : State) : Nat := s.br.left.toNat + 8 * bytesLeft s

/-- DEC_COUNT < HDR_SIZE, tested before every bit (48_decode_traversal.md R159). -/
def moreToDecode (s : State) : Bool := decide (s.dec.count < s.hdr.size)

/-- The loop of DEC_STREAM (48_decode_traversal.md R159). The bound is `bitsLeft` and every pass uses a bit, so the pass
at bound 0 has none to read and can only raise. -/
def decodeLoop : Nat → Cmd Unit
  | 0 => do
    let s ← getState
    if moreToDecode s then do
      let _ ← decStepBody
      pure ()
    else pure ()
  | k + 1 => do
    let s ← getState
    if moreToDecode s then do
      let _ ← decStepBody
      decodeLoop k
    else pure ()

/-- DEC_STREAM as a sub-step (48_decode_traversal.md R159). -/
def decStream : Cmd Unit := do
  need hasDecoderAndHeader
  let s ← getState
  decodeLoop (bitsLeft s)

/-- The step of the source's list that names a failure of the decode loop (48_decode_traversal.md R162, log 15). -/
def seqOfStop : Stop → BitVec 4
  | .raised .corruptStream => 5#4
  | .raised .truncatedStream => 6#4
  | .ioFailed .out => 7#4
  | _ => 4#4

/-- DEC_STREAM inside DECOMPRESS: a fault leaves its number in SEQ_STEP (48_decode_traversal.md R162). -/
def decStreamInSequence : Cmd Unit := fun s =>
  match decStream s with
  | .error stop t => .error stop (t.setSeqStep (seqOfStop stop))
  | r => r

/-- Step 2 of DECOMPRESS (48_decode_traversal.md R156). -/
def checkHeader : Cmd Unit := fun s =>
  if s.hdr.size = 0#64 ∨ ftN s.ft = 0 then .error (.raised .corruptHeader) s else .ok () s

/-- DECOMPRESS (48_decode_traversal.md R156). -/
def decompress : Cmd Unit := do
  seqStep 1#4
  srcOpen
  cfReadHeader
  seqStep 2#4
  checkHeader
  seqStep 3#4
  tbBuild
  seqStep 4#4
  sinkOpen
  brInit
  decInit
  decStreamInSequence
  seqStep 0#4

/-- DECOMPRESS (48_decode_traversal.md R156). -/
def execDecompress (s : State) : Host.Outcome State Fault Refusal := issueComposite decompress s

/-- DEC_INIT (48_decode_traversal.md R158). -/
def execDecInit (s : State) : Host.Outcome State Fault Refusal := issue decInit s

/-- DEC_STEP (48_decode_traversal.md R157). -/
def execDecStep (s : State) : Host.Outcome State Fault Refusal := issue (do giveSymbol (← decStep)) s

/-- DEC_STREAM (48_decode_traversal.md R159). -/
def execDecStream (s : State) : Host.Outcome State Fault Refusal := issue decStream s

end Sys2Proof.Machine
end

