-- ==== Sys2Proof/Machine/Dispatch.lean ====
section
/-! DEFINITION. One arm per command (30_encoding.md R70). -/
namespace Sys2Proof.Machine

def exec (i : Instr) (s : State) : Host.Outcome State Fault Refusal :=
  match i with
  | .ftClear => Sys2Proof.Machine.execFtClear s
  | .ftSet => Sys2Proof.Machine.execFtSet s
  | .freqScan => Sys2Proof.Machine.execFreqScan s
  | .srcOpen => Sys2Proof.Machine.execSrcOpen s
  | .sinkOpen => Sys2Proof.Machine.execSinkOpen s
  | .pqInit => Sys2Proof.Machine.execPqInit s
  | .pqInsert => Sys2Proof.Machine.execPqInsert s
  | .pqExtractMin => Sys2Proof.Machine.execPqExtractMin s
  | .pqPeek => Sys2Proof.Machine.execPqPeek s
  | .pqSize => Sys2Proof.Machine.execPqSize s
  | .pqIsEmpty => Sys2Proof.Machine.execPqIsEmpty s
  | .tbBuild => Sys2Proof.Machine.execTbBuild s
  | .cgGenerate => Sys2Proof.Machine.execCgGenerate s
  | .cgVerify => Sys2Proof.Machine.execCgVerify s
  | .bwInit => Sys2Proof.Machine.execBwInit s
  | .bwWriteBit => Sys2Proof.Machine.execBwWriteBit s
  | .bwWriteBits => Sys2Proof.Machine.execBwWriteBits s
  | .bwClose => Sys2Proof.Machine.execBwClose s
  | .brInit => Sys2Proof.Machine.execBrInit s
  | .brReadBit => Sys2Proof.Machine.execBrReadBit s
  | .cfWriteHeader => Sys2Proof.Machine.execCfWriteHeader s
  | .cfReadHeader => Sys2Proof.Machine.execCfReadHeader s
  | .compress => Sys2Proof.Machine.execCompress s
  | .encodeStream => Sys2Proof.Machine.execEncodeStream s
  | .patchPadding => Sys2Proof.Machine.execPatchPadding s
  | .decompress => Sys2Proof.Machine.execDecompress s
  | .decInit => Sys2Proof.Machine.execDecInit s
  | .decStep => Sys2Proof.Machine.execDecStep s
  | .decStream => Sys2Proof.Machine.execDecStream s

end Sys2Proof.Machine
end

