-- ==== Sys2Proof/Machine/Step.lean ====
section
/-! DEFINITION. One step: the host's next action, and the command it issues (10_state.md R11). -/
namespace Sys2Proof.Machine

/-- One step of the machine: the host's next action. A write of CMD runs the command to its end within the step
(10_state.md R11); a value that is no opcode raises IllegalCommand (30_encoding.md R71); with no action pending the block
is idle and nothing changes (log 1, log 2). -/
def step (s : State) : Host.Outcome State Fault Refusal :=
  match takeHost s with
  | .idle => .next s
  | .wrote t => .next t
  | .command c t =>
    match decode c with
    | .ok i => exec i t
    | .error _ => .next (illegalCommand t)

/-- The command word w, of 8 bits, is what the host writes to CMD next (log 1). -/
def State.withFetchWord (s : State) (nbits w : Nat) : State := pushCommand s (BitVec.ofNat 8 (w % 2 ^ nbits))

end Sys2Proof.Machine
end

