-- ==== Sys2Proof/Machine/Verifier.lean ====
section
/-! DEFINITION. The verifier at the block's boundary: a function of two byte sequences, no command and no state
(49_verifier_boundary.md). -/
namespace Sys2Proof.Machine

/-- What the verifier answers (49_verifier_boundary.md R171). -/
inductive Verdict where
  | ok | sizeMismatch | contentMismatch (offset : Nat)
deriving DecidableEq, Repr

/-- The first offset, counted from i, where two sequences of one length differ (49_verifier_boundary.md R171). -/
def firstDifference : Nat → List Byte → List Byte → Option Nat
  | i, x :: xs, y :: ys => if x = y then firstDifference (i + 1) xs ys else some i
  | _, _, _ => none

/-- verify(X, Y) (49_verifier_boundary.md R171): the length test comes first. -/
def verify (x y : List Byte) : Verdict :=
  if x.length = y.length then
    match firstDifference 0 x y with
    | none => .ok
    | some i => .contentMismatch i
  else .sizeMismatch

end Sys2Proof.Machine
end

