-- ==== Sys2Proof/Safety.lean ====
section
/-! DEFINITION. What counts as a good state, and the words the statements are written in: the bytes and bits still to be
read, packed bits, paths in the tree, the values after reset. None of them is used by the machine. -/
namespace Sys2Proof.Machine

/-! ### The tree in the arena -/

/-- NODE[i] for i below 511. -/
def recordAt (t : Tree) (i : Nat) : Node := (t.node[i]?).getD Node.blank

/-- The records in use, NODE[0 .. NODE_CNT - 1] (10_state.md R18). -/
def Tree.records (t : Tree) : List Node := (List.range t.cnt.toNat).map (recordAt t)

/-- The children an Internal record owns; a Leaf owns none (10_state.md R17). -/
def Node.children (n : Node) : List NodeIx :=
  match n.kind with
  | .internal => [n.left, n.right]
  | .leaf => []

/-- The `left` and `right` fields of the Internal records in use. -/
def Tree.childRefs (t : Tree) : List NodeIx := t.records.flatMap Node.children

/-- The real leaves in use: neither Internal nor the filler. -/
def Tree.realLeaves (t : Tree) : List Node := t.records.filter fun n => n.kind == .leaf && !n.filler

/-- The filler is one of three records, as 42_tree_builder.md R96 lays them out. -/
abbrev Tree.IsSingle (t : Tree) : Prop :=
  t.cnt = 3#9 ∧ ((recordAt t 0).kind = .leaf ∧ (recordAt t 0).filler = false) ∧
  ((recordAt t 1).kind = .leaf ∧ (recordAt t 1).filler = true ∧ (recordAt t 1).freq = 0#64) ∧
  (recordAt t 2).filler = false ∧ (recordAt t 2).left = 0#9 ∧ (recordAt t 2).right = 1#9

/-- The invariants of a tree in the arena (10_state.md R27), with what 42_tree_builder.md R99 adds: each symbol on one
leaf, and a filler in the single-symbol tree only. -/
structure TreeInv (t : Tree) : Prop where
  /-- ROOT = NODE_CNT - 1. -/
  rootLast : t.root.toNat + 1 = t.cnt.toNat
  /-- NODE[ROOT] is Internal. -/
  rootInternal : (recordAt t t.root.toNat).kind = .internal
  /-- Every index but ROOT is owned exactly once, ROOT by none. -/
  ownedOnce : ∀ i, i < t.cnt.toNat → t.childRefs.count (BitVec.ofNat 9 i) = if i = t.root.toNat then 0 else 1
  /-- An Internal record's children have smaller indices than its own (so neither is NULL). -/
  childrenBelow : ∀ i, i < t.cnt.toNat → ∀ c ∈ (recordAt t i).children, c.toNat < i
  /-- An Internal record's freq is the sum of its children's. -/
  freqSum : ∀ i, i < t.cnt.toNat → (recordAt t i).kind = .internal →
    (recordAt t i).freq = (recordAt t (recordAt t i).left.toNat).freq + (recordAt t (recordAt t i).right.toNat).freq
  /-- A Leaf's children are NULL. -/
  leafEnds : ∀ i, i < t.cnt.toNat → (recordAt t i).kind = .leaf →
    (recordAt t i).left = Config.null ∧ (recordAt t i).right = Config.null
  /-- No two real leaves carry one symbol. -/
  symsOnce : (t.realLeaves.map Node.sym).Nodup
  /-- A filler occurs in the single-symbol tree only. -/
  fillerSingle : (∀ i, i < t.cnt.toNat → (recordAt t i).filler = false) ∨ t.IsSingle

/-- The child that a branch decision leads to, 0 left and 1 right (43_code_generator.md R106, 48_decode_traversal.md R157). -/
def Tree.childAt (t : Tree) (i : NodeIx) (b : Bool) : NodeIx :=
  if b then (recordAt t i.toNat).right else (recordAt t i.toNat).left

/-- Where a sequence of branch decisions leads, 0 left and 1 right (43_code_generator.md R106); none below a leaf. -/
def followPath (t : Tree) : NodeIx → List Bool → Option NodeIx
  | i, [] => some i
  | i, b :: bs =>
    match (recordAt t i.toNat).kind with
    | .internal => followPath t (t.childAt i b) bs
    | .leaf => none

/-- The queue entry of record i while TB_BUILD combines: the record's index is its value and its sequence number, the record's
frequency its priority (42_tree_builder.md R97). -/
def entryOf (node : Vector Node 511) (i : Nat) : PqEntry :=
  { value := BitVec.ofNat 16 i, prio := ((node[i]?).getD Node.blank).freq, seq := i }

/-- Record i is below k and no record below k owns it: it is in the queue when TB_BUILD makes record k
(42_tree_builder.md R97). -/
def Unowned (node : Vector Node 511) (k i : Nat) : Prop :=
  i < k ∧ ∀ (j : Nat) (nd : Node), j < k → node[j]? = some nd → nd.left.toNat ≠ i ∧ nd.right.toNat ≠ i

/-- Record k combines the two least records that are in the queue: the least is its left child, the least of the rest its right
child, and its frequency is their sum (42_tree_builder.md R97, R98). -/
structure Combines (env : Env) (node : Vector Node 511) (k : Nat) (nd : Node) : Prop where
  leftUnowned : Unowned node k nd.left.toNat
  rightUnowned : Unowned node k nd.right.toNat
  apart : nd.left ≠ nd.right
  leftLeast : ∀ i, Unowned node k i → i ≠ nd.left.toNat →
    pqBefore env (entryOf node nd.left.toNat) (entryOf node i) = true
  rightLeast : ∀ i, Unowned node k i → i ≠ nd.left.toNat → i ≠ nd.right.toNat →
    pqBefore env (entryOf node nd.right.toNat) (entryOf node i) = true
  freqSum : nd.freq = (entryOf node nd.left.toNat).prio + (entryOf node nd.right.toNat).prio

/-! ### The invariant of the machine -/

/-- The bits of BW_CUR that are not written yet are 0 (10_state.md R20); the zeros that BW_CLOSE sends rest on it
(44_bit_writer.md R118). -/
def BitWriter.Clean (w : BitWriter) : Prop := ∀ j, j < 8 - w.nbits.toNat → w.cur.getLsbD j = false

/-- OUT_POS is 0 to OUT_LEN (10_state.md R24), and it is OUT_LEN: only SinkByte and SINK_OPEN write the two. At
OUT_LEN = 2^64 - 1 the first part alone is claimed, since the next OUT_POS is a free value (log 9). -/
def Stream.AtEnd (x : Stream) : Prop := x.pos ≤ x.len ∧ (x.len ≠ BitVec.allOnes 64 → x.pos = x.len)

/-- An entry that is not present has count 0 (10_state.md R15). -/
def FtCanonical (ft : Vector FtEntry 256) : Prop := ∀ s, (ftAt ft s).present = false → (ftAt ft s).count = 0#32

/-- The values STATUS can take: Ok and the kinds a command can end with (60_exceptions.md R176, 49_verifier_boundary.md R170). -/
def legalStatus : List Byte :=
  [0x00#8, 0x01#8, 0x02#8, 0x03#8, 0x04#8, 0x05#8, 0x06#8, 0x07#8, 0x08#8, 0x09#8, 0x0A#8, 0x0D#8,
   0x80#8, 0x81#8, 0x82#8, 0x83#8, 0x84#8, 0x85#8]

/-- What holds of every state a run from reset reaches. -/
structure Inv (s : State) : Prop where
  /-- IN is in canonical form. -/
  inWf : s.src.mem.wf
  /-- OUT is in canonical form. -/
  outWf : s.sink.mem.wf
  /-- 10_state.md R15. -/
  ftCanonical : FtCanonical s.ft
  /-- 10_state.md R27. -/
  treeInv : s.tree.valid = true → TreeInv s.tree
  /-- CT_VALID = 1 means the check passed on this table and the tree is still there (43_code_generator.md R109, 10_state.md R26). -/
  codesChecked : s.codes.valid = true → codesOk s.codes.ct = true ∧ s.tree.valid = true
  /-- DEC_CUR is an Internal node while DEC_VALID = 1 (10_state.md R23, R26). -/
  decOnNode : s.dec.valid = true → s.tree.valid = true ∧ s.dec.cur.toNat < s.tree.cnt.toNat ∧
    (recordAt s.tree s.dec.cur.toNat).kind = .internal
  /-- 10_state.md R24. -/
  outCursor : s.sink.AtEnd
  /-- 10_state.md R20. With BW_NBITS = 7 the eighth bit can be in BW_CUR and its byte not out: an I/O fault leaves it so
  (44_bit_writer.md R116). -/
  writerClean : s.bw.nbits ≠ 7#3 → s.bw.Clean
  /-- BR_LEFT is 0 to 8 (10_state.md R21). -/
  brLeft : s.br.left ≤ 8#4
  /-- Sequence numbers are distinct and below PQ_SEQ (10_state.md R16, 41_priority_queue.md R86). -/
  queueSeqs : (s.queue.entries.map PqEntry.seq).Nodup ∧ ∀ e ∈ s.queue.entries, e.seq < s.queue.seq
  /-- 60_exceptions.md R176. -/
  statusLegal : s.status ∈ legalStatus
  /-- 10_state.md R12. -/
  seqLegal : s.seqStep ≤ 8#4

/-- Every register at the value of the table of 10_state.md R28; NODE, HDR_ENT, IN_LEN and the bytes of IN and OUT are
not in it. -/
def AtReset (t : State) : Prop :=
  t.a = 0#256 ∧ t.b = 0#64 ∧ t.r0 = 0#64 ∧ t.r1 = 0#64 ∧ t.cmd = 0#8 ∧ t.status = 0#8 ∧ t.seqStep = 0#4 ∧
  (∀ x, ftAt t.ft x = { present := false, count := 0#32 }) ∧
  t.queue.entries = [] ∧ t.queue.seq = 0 ∧
  t.tree.cnt = 0#9 ∧ t.tree.root = 0x1FF#9 ∧ t.tree.valid = false ∧
  (∀ x, ctAt t.codes.ct x = { valid := false, len := 0#8, bits := 0#256 }) ∧ t.codes.valid = false ∧
  t.bw.cur = 0#8 ∧ t.bw.nbits = 0#3 ∧ t.bw.total = 0 ∧
  t.br.cur = 0#8 ∧ t.br.left = 0#4 ∧ t.br.finished = false ∧
  t.hdr.magic = 0#16 ∧ t.hdr.size = 0#64 ∧ t.hdr.num = 0#8 ∧ t.hdr.pad = 0#8 ∧ t.hdr.valid = false ∧
  t.dec.cur = 0x1FF#9 ∧ t.dec.count = 0#64 ∧ t.dec.valid = false ∧
  t.src.pos = 0#64 ∧ t.sink.pos = 0#64 ∧ t.sink.len = 0#64

/-! ### Words of the statements -/

/-- The state s with SEQ_STEP = 0 and STATUS = v: how a non-composite command leaves both (10_state.md R12, R13). -/
def ended (s : State) (v : Byte) : State := { s with seqStep := 0#4, status := v }

/-- The environment after n more accesses (log 7). -/
def askedMore (s : State) (n : Nat) : Env := { s.env with ioAsked := s.env.ioAsked + n }

/-- The bytes of IN from IN_POS to the end of the source. -/
def unread (s : State) : List Byte := memBytes s.src.mem s.src.pos.toNat (bytesLeft s)

/-- The bits of a sequence of bytes, most significant first within each byte (20_memory.md R44). -/
def bytesBits (bs : List Byte) : List Bool := bs.flatMap fun b => (List.range 8).map fun j => b.getLsbD (7 - j)

/-- How many zero bits fill the last byte of n bits (30_encoding.md R75). -/
def padCount (n : Nat) : Nat := (8 - n % 8) % 8

/-- The bytes are the bits packed most significant first, the last byte filled with zeros (30_encoding.md R66). -/
def Packs (bits : List Bool) (bytes : List Byte) : Prop :=
  bytesBits bytes = bits ++ List.replicate (padCount bits.length) false

/-- The bits of a pattern, bit 0 first, n of them (44_bit_writer.md R117). -/
def patternBits (v : Pattern) (n : Nat) : List Bool := (List.range n).map v.getLsbD

/-- The wire bits of a code, its first decision first (30_encoding.md R67). -/
def codeBits (c : Code) : List Bool := patternBits c.bits c.len.toNat

/-- The payload bits of a sequence of bytes under a code table (30_encoding.md R66). -/
def payloadBits (ct : Vector Code 256) (bs : List Byte) : List Bool := bs.flatMap fun b => codeBits (ctAt ct b)

/-- The distinct byte values of a sequence, ascending. -/
def distinctSyms (bs : List Byte) : List Byte := allSyms.filter fun x => decide (x ∈ bs)

/-- The distinct byte values of a sequence, ascending, each with how often it occurs (40_frequency_table.md R82). -/
def countsOf (bs : List Byte) : List HdrEntry :=
  (distinctSyms bs).map fun x => { sym := x, freq := BitVec.ofNat 32 (bs.count x) }

/-- The first byte that would take a count to 2^32 comes after these bytes (40_frequency_table.md R83). -/
def OverflowsAfter (bs done : List Byte) : Prop :=
  ∃ v rest, bs = done ++ v :: rest ∧ done.count v = 2 ^ 32 - 1 ∧ ∀ x, done.count x < 2 ^ 32

/-- The bits already placed in the byte being assembled (10_state.md R20). -/
def pendingBits (w : BitWriter) : List Bool := (List.range w.nbits.toNat).map fun j => w.cur.getLsbD (7 - j)

/-- The bits of the fetched byte that are still unread (10_state.md R21). -/
def readerBits (r : BitReader) : List Bool := (List.range r.left.toNat).map fun j => r.cur.getLsbD (r.left.toNat - 1 - j)

/-- Every bit the reader can still give: once the end was observed no byte is fetched (45_bit_reader.md R127). -/
def availableBits (s : State) : List Bool := readerBits s.br ++ if s.br.finished then [] else bytesBits (unread s)

/-- How many bytes the reader fetches to give this many bits (45_bit_reader.md R126). -/
def BitReader.fetched (r : BitReader) (used : Nat) : Nat := (used - r.left.toNat + 7) / 8

/-- The reader after it has given this many bits of its own and of these bytes (45_bit_reader.md R126). -/
def BitReader.after (r : BitReader) (bytes : List Byte) (used : Nat) : BitReader :=
  if used ≤ r.left.toNat then { r with left := BitVec.ofNat 4 (r.left.toNat - used) }
  else { r with cur := bytes.getD (r.fetched used - 1) 0x00#8
                left := BitVec.ofNat 4 (r.left.toNat + 8 * r.fetched used - used) }

/-- How a walk over bits ends. -/
inductive WalkEnd where
  /-- All symbols asked for are out (48_decode_traversal.md R159). -/
  | reached
  /-- A bit is needed and none is left (48_decode_traversal.md R162, step 6). -/
  | ranOut
  /-- A bit leads to NULL or to the filler (48_decode_traversal.md R161, R162, step 5). -/
  | deadEnd
deriving DecidableEq, Repr

/-- The STATUS of a decode that ends so: Ok, TruncatedStream, CorruptStream (60_exceptions.md R176). -/
def WalkEnd.status : WalkEnd → Byte
  | .reached => 0x00#8
  | .ranOut => 0x08#8
  | .deadEnd => 0x0A#8

/-- The SEQ_STEP that DECOMPRESS keeps of a decode that ends so (48_decode_traversal.md R162). -/
def WalkEnd.seqStep : WalkEnd → BitVec 4
  | .reached => 0#4
  | .ranOut => 6#4
  | .deadEnd => 5#4

/-- What a walk over bits gives: the symbols it spells, the node it ends at, how many bits it uses, how it ends. -/
structure Walk where
  syms : List Byte
  node : NodeIx
  used : Nat
  outcome : WalkEnd
deriving DecidableEq, Repr

/-- The walk from a node that spells n symbols (48_decode_traversal.md R157, R159): bit 0 goes left and 1 right, a real leaf
spells its symbol and the walk goes on from the root; with no symbol left to spell no bit is used. -/
def decodeWalk (t : Tree) : NodeIx → Nat → List Bool → Walk
  | i, 0, _ => { syms := [], node := i, used := 0, outcome := .reached }
  | i, _ + 1, [] => { syms := [], node := i, used := 0, outcome := .ranOut }
  | i, n + 1, b :: bs =>
    let c := t.childAt i b
    if c = Config.null then { syms := [], node := i, used := 1, outcome := .deadEnd }
    else match (recordAt t c.toNat).kind with
      | .internal =>
        let w := decodeWalk t c (n + 1) bs
        { w with used := w.used + 1 }
      | .leaf =>
        if (recordAt t c.toNat).filler then { syms := [], node := i, used := 1, outcome := .deadEnd }
        else
          let w := decodeWalk t t.root n bs
          { w with syms := (recordAt t c.toNat).sym :: w.syms, used := w.used + 1 }

/-- The memory m' holds these bytes at the offsets from off up, and every other byte is as in m. -/
def Holds (m m' : Memory) (off : Nat) (bytes : List Byte) : Prop :=
  m'.wf ∧ ∀ x, memRead m' x = (if off ≤ x then bytes[x - off]? else none).getD (memRead m x)

/-! ### Accesses that fail part-way -/

/-- A byte access: the space and the offset. -/
abbrev Access := Space × Word

/-- Of the accesses a command asks in this order, number k fails (20_memory.md R56, log 7). -/
def failsAt (s : State) (asks : List Access) (k : Nat) : Bool :=
  (asks[k]?).any fun a => ioFails (askedMore s k) a.1 a.2

/-- None of the accesses fails. -/
def NoneFails (s : State) (asks : List Access) : Prop := ∀ k, failsAt s asks k = false

/-- Access number k is the first that fails. -/
def FirstFails (s : State) (asks : List Access) (k : Nat) : Prop :=
  failsAt s asks k = true ∧ ∀ j, j < k → failsAt s asks j = false

/-- The accesses of n reads one after the other (20_memory.md R47). -/
def readAsks (pos : Word) (n : Nat) : List Access := (List.range n).map fun j => (.inp, pos + BitVec.ofNat 64 j)

/-- The accesses of n writes one after the other (20_memory.md R48). -/
def writeAsks (pos : Word) (n : Nat) : List Access := (List.range n).map fun j => (.out, pos + BitVec.ofNat 64 j)

/-- How many bytes go out when so many bits join the pending ones (44_bit_writer.md R116). -/
def BitWriter.sends (w : BitWriter) (n : Nat) : Nat := (w.nbits.toNat + n) / 8

/-- The accesses of ENCODE_STREAM (47_compress_sequencer.md R144): each byte is read at p and its code then sends the bytes
it completes to q, with n bits pending before. -/
def encodeAsks (ct : Vector Code 256) : Nat → List Byte → Word → Word → List Access
  | _, [], _, _ => []
  | n, v :: vs, p, q =>
    let bits := n + (ctAt ct v).len.toNat
    (.inp, p) :: writeAsks q (bits / 8) ++
      encodeAsks ct (bits % 8) vs (p + 1#64) (q + BitVec.ofNat 64 (bits / 8))

/-- The accesses of a walk over bits (48_decode_traversal.md R157, R159): a byte is read at p where a bit is needed and none
of `left` is left, and each symbol is written to q. -/
def decodeAsks (t : Tree) : NodeIx → Nat → Nat → Word → Word → List Bool → List Access
  | _, 0, _, _, _, _ => []
  | _, _ + 1, _, _, _, [] => []
  | i, n + 1, left, p, q, b :: bs =>
    let fetch : List Access := if left = 0 then [(.inp, p)] else []
    let left' := if left = 0 then 7 else left - 1
    let p' := if left = 0 then p + 1#64 else p
    let c := t.childAt i b
    if c = Config.null then fetch
    else match (recordAt t c.toNat).kind with
      | .internal => fetch ++ decodeAsks t c (n + 1) left' p' q bs
      | .leaf =>
        if (recordAt t c.toNat).filler then fetch
        else fetch ++ (.out, q) :: decodeAsks t t.root n left' p' (q + 1#64) bs

/-- The accesses of DECOMPRESS on a complete header of m entries with a size, z, and a payload (48_decode_traversal.md R156):
the reads of the header from the start of IN, then those of the walk, which writes from the start of OUT. -/
def decompressAsks (t : Tree) (z : Word) (m : Nat) (payload : List Byte) : List Access :=
  readAsks 0#64 (12 + 5 * m) ++
    decodeAsks t t.root z.toNat 0 (BitVec.ofNat 64 (12 + 5 * m)) 0#64 (bytesBits payload)

/-- The accesses of COMPRESS on an input of 1 to 255 distinct byte values, under the codes of its bytes, each with the number of
the step that asks it (47_compress_sequencer.md R141): the scan, the header, the encoding, the last byte where the bits do not
fill it, the patch. -/
def compressSteps (ct : Vector Code 256) (bs : List Byte) : List (BitVec 4 × Access) :=
  let h := 12 + 5 * (distinctSyms bs).length
  let bits := (payloadBits ct bs).length
  (readAsks 0#64 bs.length).map (Prod.mk 1#4) ++ (writeAsks 0#64 h).map (Prod.mk 5#4) ++
    (encodeAsks ct 0 bs 0#64 (BitVec.ofNat 64 h)).map (Prod.mk 6#4) ++
    (if bits % 8 = 0 then [] else [(7#4, .out, BitVec.ofNat 64 (h + bits / 8))]) ++ [(8#4, .out, Config.padOffset)]

/-- The accesses of COMPRESS in their order. -/
def compressAsks (ct : Vector Code 256) (bs : List Byte) : List Access := (compressSteps ct bs).map Prod.snd

/-- How many of the accesses are reads. -/
def readCount (asks : List Access) : Nat := asks.countP fun a => a.1 == .inp

/-! ### Bytes and lines -/

/-- A write to the BitWriter as a line of a program: BW_WRITE_BIT or BW_WRITE_BITS. -/
inductive BitWrite where
  | bit (b : Bool)
  | bits (value : Pattern) (length : Nat)
deriving DecidableEq, Repr

/-- The length is one BW_WRITE_BITS does not refuse (44_bit_writer.md R117). -/
def BitWrite.Fits : BitWrite → Prop
  | .bit _ => True
  | .bits _ n => n ≤ 256

/-- The bits the write sends, in order (44_bit_writer.md R116, R117). -/
def BitWrite.sent : BitWrite → List Bool
  | .bit b => [b]
  | .bits v n => patternBits v n

/-- The write as a program line (30_encoding.md R73). -/
def BitWrite.line : BitWrite → Line
  | .bit b => { instr := .bwWriteBit, a := b.toNat }
  | .bits v n => { instr := .bwWriteBits, a := v.toNat, b := n }

/-- The program that makes a new writer, writes and closes it (44_bit_writer.md R119). -/
def packProgram (ws : List BitWrite) : List HostAction :=
  lineActions { instr := .bwInit } ++ ws.flatMap (fun w => lineActions w.line) ++ lineActions { instr := .bwClose }

/-- The input ends inside the header: before the magic is complete, or after the right magic and before the twelve fixed
bytes and the entries they announce are complete (46_container_format.md R133, R136). -/
def HeaderTruncated (bs : List Byte) : Prop :=
  bs.length < 2 ∨ ∃ rest, bs = 0x48#8 :: 0x46#8 :: rest ∧
    (rest.length < 10 ∨ ∃ n : Byte, rest[8]? = some n ∧ rest.length < 10 + 5 * n.toNat)

/-- How many bytes CF_READ_HEADER reads of such a source where no read fails (46_container_format.md R133, R136): two where the
magic is wrong, else up to the last entry that byte 10 announces. -/
def headerReads (bs : List Byte) : Nat :=
  if bs.take 2 = [0x48#8, 0x46#8] then min bs.length (12 + 5 * (bs.getD 10 0#8).toNat) else min bs.length 2

/-- The entries whose five bytes are all in these bytes (30_encoding.md R65, 46_container_format.md R136). -/
def wholeEntries : List Byte → List HdrEntry
  | x :: f0 :: f1 :: f2 :: f3 :: rest => { sym := x, freq := f0 ++ f1 ++ f2 ++ f3 } :: wholeEntries rest
  | _ => []

/-- The header registers after CF_READ_HEADER has read these bytes of a header and then ended with a fault: a field whose bytes
are all in holds the value read, the others what they held, and HDR_VALID is 0 (46_container_format.md R136). -/
structure HeaderAfter (h : Header) (bs : List Byte) (h' : Header) : Prop where
  magic : h'.magic = if 2 ≤ bs.length then bs.getD 0 0#8 ++ bs.getD 1 0#8 else h.magic
  size : h'.size = if 10 ≤ bs.length then be64Value ((bs.drop 2).take 8) else h.size
  num : h'.num = if 11 ≤ bs.length then bs.getD 10 0#8 else h.num
  pad : h'.pad = if 12 ≤ bs.length then bs.getD 11 0#8 else h.pad
  entIn : ∀ i, i < (wholeEntries (bs.drop 12)).length → h'.ent[i]? = (wholeEntries (bs.drop 12))[i]?
  entOld : ∀ i, (wholeEntries (bs.drop 12)).length ≤ i → h'.ent[i]? = h.ent[i]?
  valid : h'.valid = false

/-- The five bytes of a header entry (30_encoding.md R65). -/
def hdrEntryBytes (e : HdrEntry) : List Byte := e.sym :: be32Bytes e.freq

/-- The bytes of a header, field by field (30_encoding.md R60). -/
def headerOf (size : Word) (num pad : Byte) (ents : List HdrEntry) : List Byte :=
  [0x48#8, 0x46#8] ++ be64Bytes size ++ [num, pad] ++ ents.flatMap hdrEntryBytes

/-- The entries of a table in ascending symbol order (30_encoding.md R65). -/
def entriesOf (ft : Vector FtEntry 256) : List HdrEntry :=
  (presentSyms ft).map fun x => { sym := x, freq := (ftAt ft x).count }

/-- The table a header's entries make: a later frequency replaces an earlier one (46_container_format.md R134). -/
def tableOf (ents : List HdrEntry) : Vector FtEntry 256 :=
  ents.foldl (fun ft e => ftPut ft e.sym { present := true, count := e.freq }) ftEmpty

/-- The sum of a table's counts (42_tree_builder.md R99). -/
def totalCount (ft : Vector FtEntry 256) : Nat := ((presentSyms ft).map fun x => (ftAt ft x).count.toNat).sum

end Sys2Proof.Machine
end

