-- ==== Sys2Proof/Certificates/Slice0/Obligations.lean ====
section
/-! DEFINITION. The statements for the provers. Each docstring names the rules of spec/ it formalises. -/

open Sys2Proof Sys2Proof.Machine

/-! ### Encoding, the host, reset -/

/-- 30_encoding.md R73, 10_state.md R10: every line, of every format and with every operand values, is encoded as the opcode
alone when its format is N and as a triple (opcode, A, B) otherwise, in which the named slices hold the operands' bits and every
other bit of A and B is 0; its encoding decodes to the line with its operands cut to the slices, which is the line itself where
they fit. An opcode alone that decodes is the encoding of its line; a triple that decodes is the encoding of its line but
for the bits of A and B outside the named slices, which the line's own triple has 0 (log 24 for B of format A). -/
def Obligations.DecodeEncodeLine : Prop :=
  (∀ l : Line, decodeLine (encodeLine l) = .ok { l with a := l.a % 2 ^ l.instr.widthA, b := l.b % 2 ^ l.instr.widthB } ∧
    (l.instr.format = .n ↔ encodeLine l = .opcode (encode l.instr)) ∧
    (l.instr.format ≠ .n → ∃ a b, encodeLine l = .triple (encode l.instr) a b ∧
      (∀ i, a.getLsbD i = (l.a.testBit i && decide (i < l.instr.widthA))) ∧
      (∀ i, b.getLsbD i = (l.b.testBit i && decide (i < l.instr.widthB))))) ∧
  (∀ l : Line, l.WellFormed → decodeLine (encodeLine l) = .ok l) ∧
  (∀ (op : Byte) (l : Line), decodeLine (.opcode op) = .ok l → l.WellFormed ∧ encodeLine l = .opcode op) ∧
  (∀ (op : Byte) (a : Pattern) (b : Word) (l : Line), decodeLine (.triple op a b) = .ok l → l.WellFormed ∧
    ∃ a' b', encodeLine l = .triple op a' b' ∧
      (∀ i, a'.getLsbD i = (a.getLsbD i && decide (i < l.instr.widthA))) ∧
      (∀ i, b'.getLsbD i = (b.getLsbD i && decide (i < l.instr.widthB))))

/-- 30_encoding.md R70: command words written out from the opcode map, at least one of each subsection. -/
def Obligations.DecodeSpecWords : Prop :=
  decode 0x02#8 = .ok .ftSet ∧ decode 0x09#8 = .ok .sinkOpen ∧ decode 0x12#8 = .ok .pqExtractMin ∧
  decode 0x20#8 = .ok .tbBuild ∧ decode 0x31#8 = .ok .cgVerify ∧ decode 0x42#8 = .ok .bwWriteBits ∧
  decode 0x51#8 = .ok .brReadBit ∧ decode 0x61#8 = .ok .cfReadHeader ∧ decode 0x72#8 = .ok .patchPadding ∧
  decode 0x83#8 = .ok .decStream

/-- 30_encoding.md R71: a value of CMD that is no opcode raises IllegalCommand, writes STATUS and SEQ_STEP <- 0 and changes
nothing else; 227 values are such. -/
def Obligations.IllegalCommandWord : Prop :=
  (∀ (s : State) (c : Byte) (rest : List HostAction), s.host = .writeCmd c :: rest → (∀ i, encode i ≠ c) →
    step s = .next (ended { s with cmd := c, host := rest } 0x80#8)) ∧
  (allSyms.filter fun c => (decode c).isOk).length = 29

/-- 10_state.md R11, 30_encoding.md R73: when the host writes CMD and the value decodes to i, the step is exec of i at the
state with CMD written and the host's action taken. When the host issues a program line, the steps that takes run its command
with the line's operands in the slices of A and B it names and 0 in every other bit, or, for format N, with A and B as they were.
The list of pending actions is the model's choice (log 1), the write of B for format A a deduction (log 24). -/
def Obligations.StepRunsDecodedCommand : Prop :=
  (∀ (s : State) (c : Byte) (i : Instr) (rest : List HostAction), s.host = .writeCmd c :: rest → decode c = .ok i →
    step s = exec i { s with cmd := c, host := rest }) ∧
  (∀ (s : State) (l : Line) (rest : List HostAction), s.host = lineActions l ++ rest →
    Sys2Proof.core.run (lineActions l).length s = exec l.instr
      { s with
        a := if l.instr.format = .n then s.a else BitVec.ofNat 256 (l.a % 2 ^ l.instr.widthA)
        b := if l.instr.format = .n then s.b else BitVec.ofNat 64 (l.b % 2 ^ l.instr.widthB)
        cmd := encode l.instr, host := rest })

/-- 10_state.md R29: what the host's other writes do, and nothing else; the list of pending actions and the idle step are
the model's choice (log 1, log 2). -/
def Obligations.HostWrites : Prop :=
  ∀ (s : State) (rest : List HostAction),
    (∀ v, s.host = .writeA v :: rest → step s = .next { s with a := v, host := rest }) ∧
    (∀ v, s.host = .writeB v :: rest → step s = .next { s with b := v, host := rest }) ∧
    (∀ v, s.host = .writeInLen v :: rest → step s = .next { s with src := { s.src with len := v }, host := rest }) ∧
    (∀ off v, s.host = .writeIn off v :: rest → s.src.mem.wf → ∃ m, m.wf ∧
      step s = .next { s with src := { s.src with mem := m }, host := rest } ∧
      ∀ x, memRead m x = if x = off.toNat then v else memRead s.src.mem x) ∧
    (s.host = [] → step s = .next s)

/-- 10_state.md R28, 70_reset_and_hazards.md R200, R201: State.reset holds the reset values, and the reset event puts them
in place from every state, keeping IN, IN_LEN and the bytes of OUT. NODE and HDR_ENT are unspecified and not in it. That the
reset is an action in the host's list is the model's choice (log 1), and so is that it keeps the parameters and the rest of the
list (log 22). -/
def Obligations.ResetValues : Prop :=
  AtReset State.reset ∧
  ∀ (s : State) (rest : List HostAction), s.host = .reset :: rest → ∃ t, step s = .next t ∧ AtReset t ∧
    t.src.mem = s.src.mem ∧ t.src.len = s.src.len ∧ t.sink.mem = s.sink.mem ∧ t.env = s.env ∧ t.host = rest

/-! ### Frequency table and streams -/

/-- 40_frequency_table.md R80, R81: FT_CLEAR and FT_SET from every state, every operand. -/
def Obligations.FtClearFtSet : Prop :=
  ∀ s : State,
    (∃ ft' : Vector FtEntry 256, exec .ftClear s = .next (ended
        { s with
          ft := ft', tree := { s.tree with valid := false }, codes := { s.codes with valid := false },
          dec := { s.dec with valid := false } } 0x00#8) ∧
      ∀ x, ftAt ft' x = { present := false, count := 0#32 }) ∧
    (∃ ft' : Vector FtEntry 256, exec .ftSet s = .next (ended
        { s with
          ft := ft', tree := { s.tree with valid := false }, codes := { s.codes with valid := false },
          dec := { s.dec with valid := false } } 0x00#8) ∧
      ∀ x, ftAt ft' x = if x = s.a.extractLsb 7 0 then { present := true, count := s.b.extractLsb 31 0 } else ftAt s.ft x)

/-- 40_frequency_table.md R82: where no read fails and no value is unread 2^32 times or more, FREQ_SCAN counts every unread
byte of the source, whatever the table held. Where access number k is the first that fails, it ends with IOError with the k
bytes before it counted, IN_POS after the last byte read and R0 unchanged. -/
def Obligations.FreqScanCounts : Prop :=
  ∀ s : State,
    (NoneFails s (readAsks s.src.pos (bytesLeft s)) → (∀ v, (unread s).count v < 2 ^ 32) →
      ∃ ft' : Vector FtEntry 256, exec .freqScan s = .next (ended
          { s with
            ft := ft', tree := { s.tree with valid := false }, codes := { s.codes with valid := false },
            dec := { s.dec with valid := false }, r0 := BitVec.ofNat 64 (unread s).length,
            src := { s.src with pos := s.src.pos + BitVec.ofNat 64 (unread s).length },
            env := askedMore s (unread s).length } 0x00#8) ∧
        ∀ v, ftAt ft' v =
          { present := decide (0 < (unread s).count v), count := BitVec.ofNat 32 ((unread s).count v) }) ∧
    (∀ k, FirstFails s (readAsks s.src.pos (bytesLeft s)) k → (∀ v, ((unread s).take k).count v < 2 ^ 32) →
      ∃ ft' : Vector FtEntry 256, exec .freqScan s = .next (ended
          { s with
            ft := ft', tree := { s.tree with valid := false }, codes := { s.codes with valid := false },
            dec := { s.dec with valid := false },
            src := { s.src with pos := s.src.pos + BitVec.ofNat 64 k }, env := askedMore s (k + 1) } 0x01#8) ∧
        ∀ v, ftAt ft' v = { present := decide (0 < ((unread s).take k).count v),
                            count := BitVec.ofNat 32 (((unread s).take k).count v) })

/-- 40_frequency_table.md R82, R83: where the reads up to the first byte that would take a count to 2^32 do not fail, the scan
raises FreqOverflow there: FT holds the counts of the bytes before it, one of them 2^32 - 1, IN_POS stands after it and R0 is
unchanged. There is such a byte wherever a value is unread 2^32 times or more. -/
def Obligations.FreqScanOverflow : Prop :=
  ∀ s : State,
    (∀ done, OverflowsAfter (unread s) done → NoneFails s (readAsks s.src.pos (done.length + 1)) →
      ∃ ft' : Vector FtEntry 256, exec .freqScan s = .next (ended
          { s with
            ft := ft', tree := { s.tree with valid := false }, codes := { s.codes with valid := false },
            dec := { s.dec with valid := false },
            src := { s.src with pos := s.src.pos + BitVec.ofNat 64 (done.length + 1) },
            env := askedMore s (done.length + 1) } 0x81#8) ∧
        ∀ x, ftAt ft' x = { present := decide (0 < done.count x), count := BitVec.ofNat 32 (done.count x) }) ∧
    ((∃ v, 2 ^ 32 ≤ (unread s).count v) → ∃ done, OverflowsAfter (unread s) done)

/-- 20_memory.md R51, R53, 44_bit_writer.md R115, 45_bit_reader.md R125, 48_decode_traversal.md R158: the commands that open
a stream or make a new reader or writer, from every state, and DEC_INIT, which puts the traversal on the root of a valid
tree and without one raises NotReady. The bytes of OUT are not erased. -/
def Obligations.OpenAndInit : Prop :=
  ∀ s : State,
    exec .srcOpen s = .next (ended { s with src := { s.src with pos := 0#64 } } 0x00#8) ∧
    exec .sinkOpen s = .next (ended { s with sink := { s.sink with len := 0#64, pos := 0#64 } } 0x00#8) ∧
    exec .bwInit s = .next (ended { s with bw := { cur := 0#8, nbits := 0#3, total := 0 } } 0x00#8) ∧
    exec .brInit s = .next (ended { s with br := { cur := 0#8, left := 0#4, finished := false } } 0x00#8) ∧
    (s.tree.valid = true →
      exec .decInit s = .next (ended { s with dec := { cur := s.tree.root, count := 0#64, valid := true } } 0x00#8)) ∧
    (s.tree.valid = false → exec .decInit s = .next (ended s 0x85#8))

/-- 20_memory.md R43: BE64_bytes gives eight bytes and BE32_bytes four, byte i of either is the i-th most significant, and the
value helpers put them together again. -/
def Obligations.BigEndianBytes : Prop :=
  (∀ v : Word, (be64Bytes v).length = 8 ∧ ∀ i, i < 8 → (be64Bytes v)[i]? = some (v.extractLsb' (56 - 8 * i) 8)) ∧
  (∀ v : Count, (be32Bytes v).length = 4 ∧ ∀ i, i < 4 → (be32Bytes v)[i]? = some (v.extractLsb' (24 - 8 * i) 8)) ∧
  (∀ b0 b1 b2 b3 b4 b5 b6 b7 : Byte,
    be64Value [b0, b1, b2, b3, b4, b5, b6, b7] = b0 ++ b1 ++ b2 ++ b3 ++ b4 ++ b5 ++ b6 ++ b7) ∧
  (∀ b0 b1 b2 b3 : Byte, be32Value [b0, b1, b2, b3] = b0 ++ b1 ++ b2 ++ b3)

/-! ### Priority queue -/

/-- 41_priority_queue.md R87, R88: PQ_INIT and PQ_INSERT from every state, every operand. -/
def Obligations.PqInitInsert : Prop :=
  ∀ s : State,
    exec .pqInit s = .next (ended { s with queue := { entries := [], seq := 0 } } 0x00#8) ∧
    exec .pqInsert s = .next (ended
      { s with
        queue :=
          { entries := s.queue.entries ++ [{ value := s.a.extractLsb 15 0, prio := s.b, seq := s.queue.seq }]
            seq := s.queue.seq + 1 } } 0x00#8)

/-- 41_priority_queue.md R91, R92: PQ_SIZE gives the size wherever 64 bits hold it, PQ_IS_EMPTY 1 or 0. That PQ_SIZE completes
for the larger sizes too, with a value the spec does not state, is the model's choice (log 11). -/
def Obligations.PqSizeIsEmpty : Prop :=
  ∀ s : State,
    (∃ v, exec .pqSize s = .next (ended { s with r0 := v } 0x00#8) ∧
      (s.queue.entries.length < 2 ^ 64 → v.toNat = s.queue.entries.length)) ∧
    exec .pqIsEmpty s =
      .next (ended { s with r0 := if s.queue.entries = [] then 1#64 else 0#64 } 0x00#8)

/-- 41_priority_queue.md R89, R90: on every non-empty queue, PQ_PEEK and PQ_EXTRACT_MIN give the one entry that comes
before every other, PQ_EXTRACT_MIN takes it out, PQ_PEEK leaves the queue; on the empty queue both raise QueueEmpty and
change nothing else. -/
def Obligations.PqGivesMinimum : Prop :=
  ∀ s : State,
    (s.queue.entries ≠ [] →
      ∃ e ∈ s.queue.entries, (∀ f ∈ s.queue.entries, f ≠ e → pqBefore s.env e f = true) ∧
        exec .pqPeek s = .next (ended { s with r0 := e.value.setWidth 64, r1 := e.prio } 0x00#8) ∧
        exec .pqExtractMin s = .next (ended
          { s with
            queue := { s.queue with entries := s.queue.entries.erase e }, r0 := e.value.setWidth 64, r1 := e.prio }
          0x00#8)) ∧
    (s.queue.entries = [] →
      exec .pqPeek s = .next (ended s 0x04#8) ∧ exec .pqExtractMin s = .next (ended s 0x04#8))

/-- 41_priority_queue.md R85, R86, 92_eei_decisions.md D4: for every value of the parameter the order is a strict total
order that refines the priorities; with the default it is the pair (prio, seq). -/
def Obligations.TieBreakOrder : Prop :=
  ∀ env : Env,
    (∀ x, pqBefore env x x = false) ∧
    (∀ x y z, pqBefore env x y = true → pqBefore env y z = true → pqBefore env x z = true) ∧
    (∀ x y, x ≠ y → pqBefore env x y = true ∨ pqBefore env y x = true) ∧
    (∀ x y : PqEntry, x.prio < y.prio → pqBefore env x y = true) ∧
    (env.tieRank = [] → ∀ x y : PqEntry, x.seq ≠ y.seq →
      (pqBefore env x y = true ↔ x.prio < y.prio ∨ x.prio = y.prio ∧ x.seq < y.seq))

/-! ### Tree builder -/

/-- 42_tree_builder.md R95: a table without entries raises EmptyAlphabet and clears the three flags; NODE, NODE_CNT, ROOT and
the queue stay. -/
def Obligations.TbBuildEmptyTable : Prop :=
  ∀ s : State, presentSyms s.ft = [] → exec .tbBuild s = .next (ended
    { s with
      tree := { s.tree with valid := false }, codes := { s.codes with valid := false },
      dec := { s.dec with valid := false } } 0x05#8)

/-- 42_tree_builder.md R96: the single-symbol tree, from every state whose table has one entry. -/
def Obligations.TbBuildSingle : Prop :=
  ∀ (s : State) (x : Byte), presentSyms s.ft = [x] →
    ∃ node' : Vector Node 511, exec .tbBuild s = .next (ended
        { s with
          tree := { node := node', cnt := 3#9, root := 2#9, valid := true },
          codes := { s.codes with valid := false }, dec := { s.dec with valid := false },
          queue := { entries := [], seq := 0 } } 0x00#8) ∧
      nodeAt node' 0#9 = some { kind := .leaf, filler := false, sym := x, freq := (ftAt s.ft x).count.zeroExtend 64,
                                left := 0x1FF#9, right := 0x1FF#9 } ∧
      nodeAt node' 1#9 = some { kind := .leaf, filler := true, sym := 0#8, freq := 0#64,
                                left := 0x1FF#9, right := 0x1FF#9 } ∧
      nodeAt node' 2#9 = some { kind := .internal, filler := false, sym := 0#8,
                                freq := (ftAt s.ft x).count.zeroExtend 64, left := 0#9, right := 1#9 } ∧
      ∀ i : NodeIx, 2#9 < i → nodeAt node' i = nodeAt s.tree.node i

/-- 42_tree_builder.md R97, R98, R99: for a table of n >= 2 entries TB_BUILD makes n leaves in ascending symbol order, then
n - 1 Internal nodes without filler, each of which combines the two least records that no record before it owns, by the order of
41_priority_queue.md R86: the least on the left, the least of the rest on the right, with the sum of their frequencies. The root is
the last record, and the queue ends empty with 2n - 1 sequence numbers used. -/
def Obligations.TbBuildGeneral : Prop :=
  ∀ s : State, 2 ≤ ftN s.ft →
    ∃ node' : Vector Node 511, exec .tbBuild s = .next (ended
        { s with
          tree := { node := node', cnt := BitVec.ofNat 9 (2 * ftN s.ft - 1), root := BitVec.ofNat 9 (2 * ftN s.ft - 2),
                    valid := true },
          codes := { s.codes with valid := false }, dec := { s.dec with valid := false },
          queue := { entries := [], seq := 2 * ftN s.ft - 1 } } 0x00#8) ∧
      (∀ (k : Nat) (x : Byte), (presentSyms s.ft)[k]? = some x → node'[k]? =
        some { kind := .leaf, filler := false, sym := x, freq := (ftAt s.ft x).count.zeroExtend 64,
               left := 0x1FF#9, right := 0x1FF#9 }) ∧
      (∀ k : Nat, ftN s.ft ≤ k → k < 2 * ftN s.ft - 1 → ∃ nd, node'[k]? = some nd ∧ nd.kind = .internal ∧
        nd.filler = false ∧ nd.sym = 0#8 ∧ nd.left.toNat < k ∧ nd.right.toNat < k ∧ Combines s.env node' k nd) ∧
      (∀ k : Nat, 2 * ftN s.ft - 1 ≤ k → node'[k]? = s.tree.node[k]?)

/-- 10_state.md R27, 42_tree_builder.md R99, R100: from every state with a non-empty table TB_BUILD completes, its tree has
the invariants of a tree in the arena, and the root's frequency is the sum of all counts, which does not overflow. -/
def Obligations.TbBuildTreeInvariant : Prop :=
  ∀ s : State, presentSyms s.ft ≠ [] →
    ∃ t, exec .tbBuild s = .next t ∧ t.status = 0x00#8 ∧ TreeInv t.tree ∧
      (recordAt t.tree t.tree.root.toNat).freq.toNat = totalCount s.ft ∧ totalCount s.ft < 2 ^ 40

/-- 42_tree_builder.md R97, R98: one combination takes the two least entries of the queue, the first extracted on the left
and the second on the right, and queues the new node with the sum of their priorities. -/
def Obligations.TbCombineSides : Prop :=
  ∀ s : State, 2 ≤ s.queue.entries.length → s.tree.cnt.toNat < 511 →
    ∃ a ∈ s.queue.entries, ∃ b ∈ s.queue.entries.erase a, ∃ t,
      (∀ f ∈ s.queue.entries, f ≠ a → pqBefore s.env a f = true) ∧
      (∀ f ∈ s.queue.entries.erase a, f ≠ b → pqBefore s.env b f = true) ∧
      combine s = .ok () t ∧
      nodeAt t.tree.node s.tree.cnt = some { kind := .internal, filler := false, sym := 0#8, freq := a.prio + b.prio,
                                             left := a.value.setWidth 9, right := b.value.setWidth 9 } ∧
      (∀ i, i ≠ s.tree.cnt → nodeAt t.tree.node i = nodeAt s.tree.node i) ∧
      t = { s with
            tree := { s.tree with node := t.tree.node, cnt := s.tree.cnt + 1#9 },
            queue := { entries := ((s.queue.entries.erase a).erase b) ++
                         [{ value := s.tree.cnt.setWidth 16, prio := a.prio + b.prio, seq := s.queue.seq }],
                       seq := s.queue.seq + 1 } }

/-- 42_tree_builder.md R102: TB_BUILD is a function of FT (and of the parameter TIEBREAK) alone. -/
def Obligations.TbBuildDeterministic : Prop :=
  ∀ s u : State, s.ft = u.ft → s.env.tieRank = u.env.tieRank → presentSyms s.ft ≠ [] →
    ∃ t v, exec .tbBuild s = .next t ∧ exec .tbBuild u = .next v ∧ t.tree.cnt = v.tree.cnt ∧ t.tree.root = v.tree.root ∧
      ∀ i, i < t.tree.cnt.toNat → recordAt t.tree i = recordAt v.tree i

/-! ### Code generator -/

/-- 43_code_generator.md R105, R106, R108, R111, 10_state.md R19: for every valid tree of R27, CG_GENERATE completes; exactly
the symbols of real leaves get a code, every code has length 1 to 255 and no bit at its length or above, and no code is a
prefix of another. Nothing outside CT changes. -/
def Obligations.CgGeneratePrefixFree : Prop :=
  ∀ s : State, s.tree.valid = true → TreeInv s.tree →
    ∃ ct' : Vector Code 256, exec .cgGenerate s = .next (ended { s with codes := { ct := ct', valid := true } } 0x00#8) ∧
      (∀ x, (ctAt ct' x).valid = true ↔ x ∈ s.tree.realLeaves.map Node.sym) ∧
      (∀ x, (ctAt ct' x).valid = true → 1 ≤ (ctAt ct' x).len.toNat) ∧
      (∀ x i, (ctAt ct' x).len.toNat ≤ i → (ctAt ct' x).bits.getLsbD i = false) ∧
      (∀ x y, x ≠ y → (ctAt ct' x).valid = true → (ctAt ct' y).valid = true →
        ¬((ctAt ct' x).len.toNat ≤ (ctAt ct' y).len.toNat ∧
          ∀ i, i < (ctAt ct' x).len.toNat → (ctAt ct' x).bits.getLsbD i = (ctAt ct' y).bits.getLsbD i))

/-- 43_code_generator.md R106, 30_encoding.md R67: the code CG_GENERATE gives a symbol, read from bit 0 up, is the path of
branch decisions from the root to the symbol's leaf. -/
def Obligations.CgCodeIsPath : Prop :=
  ∀ s t : State, s.tree.valid = true → TreeInv s.tree → exec .cgGenerate s = .next t →
    ∀ x, (ctAt t.codes.ct x).valid = true →
      ∃ i, followPath s.tree s.tree.root (codeBits (ctAt t.codes.ct x)) = some i ∧
        (recordAt s.tree i.toNat).kind = .leaf ∧ (recordAt s.tree i.toNat).filler = false ∧
        (recordAt s.tree i.toNat).sym = x

/-- 43_code_generator.md R107: where one child of the root is the filler and the other a real leaf, the leaf gets the one
bit 0 on the left and 1 on the right, and no other symbol gets a code. -/
def Obligations.CgSingleSymbol : Prop :=
  ∀ (s : State) (nd l r : Node), s.tree.valid = true → nodeAt s.tree.node s.tree.root = some nd →
    nodeAt s.tree.node nd.left = some l → nodeAt s.tree.node nd.right = some r →
    l.kind = .leaf → r.kind = .leaf → l.filler ≠ r.filler →
    ∃ ct' : Vector Code 256, exec .cgGenerate s = .next (ended { s with codes := { ct := ct', valid := true } } 0x00#8) ∧
      ∀ x, ctAt ct' x =
        if r.filler = true ∧ x = l.sym then { valid := true, len := 1#8, bits := 0#256 }
        else if l.filler = true ∧ x = r.sym then { valid := true, len := 1#8, bits := 1#256 }
        else { valid := false, len := 0#8, bits := 0#256 }

/-- 43_code_generator.md R108, R109: without valid codes CG_VERIFY raises NotReady; with valid codes it answers Ok exactly
when every code has a length and none is a prefix of another, else InternalCheckFailed; it changes nothing either way. -/
def Obligations.CgVerifyChecks : Prop :=
  ∀ s : State,
    (s.codes.valid = false → exec .cgVerify s = .next (ended s 0x85#8)) ∧
    (s.codes.valid = true → ((∀ x, (ctAt s.codes.ct x).valid = true → (ctAt s.codes.ct x).len ≠ 0#8) ∧
      (∀ x y, x ≠ y → (ctAt s.codes.ct x).valid = true → (ctAt s.codes.ct y).valid = true →
        ¬((ctAt s.codes.ct x).len.toNat ≤ (ctAt s.codes.ct y).len.toNat ∧
          ∀ i, i < (ctAt s.codes.ct x).len.toNat →
            (ctAt s.codes.ct x).bits.getLsbD i = (ctAt s.codes.ct y).bits.getLsbD i))) →
      exec .cgVerify s = .next (ended s 0x00#8)) ∧
    (s.codes.valid = true → ((∃ x, (ctAt s.codes.ct x).valid = true ∧ (ctAt s.codes.ct x).len = 0#8) ∨
      (∃ x y, x ≠ y ∧ (ctAt s.codes.ct x).valid = true ∧ (ctAt s.codes.ct y).valid = true ∧
        (ctAt s.codes.ct x).len.toNat ≤ (ctAt s.codes.ct y).len.toNat ∧
          ∀ i, i < (ctAt s.codes.ct x).len.toNat →
            (ctAt s.codes.ct x).bits.getLsbD i = (ctAt s.codes.ct y).bits.getLsbD i)) →
      exec .cgVerify s = .next (ended s 0x84#8))

/-- 10_state.md R26, 60_exceptions.md R178: a command that needs a flag and finds it 0 raises NotReady and changes nothing
but STATUS and SEQ_STEP. -/
def Obligations.NotReadyChangesNothing : Prop :=
  ∀ s : State,
    (s.tree.valid = false →
      exec .cgGenerate s = .next (ended s 0x85#8) ∧ exec .decInit s = .next (ended s 0x85#8)) ∧
    (s.codes.valid = false →
      exec .cgVerify s = .next (ended s 0x85#8) ∧ exec .encodeStream s = .next (ended s 0x85#8)) ∧
    (s.dec.valid = false → exec .decStep s = .next (ended s 0x85#8)) ∧
    (s.dec.valid = false ∨ s.hdr.valid = false → exec .decStream s = .next (ended s 0x85#8))

/-! ### Bit writer -/

/-- 44_bit_writer.md R116: a bit goes to the next free place of BW_CUR, the eighth sends the byte to the end of OUT, and an
I/O fault on that byte leaves the bit placed and counted and the byte unsent. -/
def Obligations.BwWriteBitPlaces : Prop :=
  ∀ s : State, ∃ cur' : Byte,
    (∀ j, j < 8 → cur'.getLsbD j = if j = 7 - s.bw.nbits.toNat then s.a.getLsbD 0 else s.bw.cur.getLsbD j) ∧
    (s.bw.nbits ≠ 7#3 → exec .bwWriteBit s = .next (ended
      { s with bw := { cur := cur', nbits := s.bw.nbits + 1#3, total := s.bw.total + 1 } } 0x00#8)) ∧
    (s.bw.nbits = 7#3 → ioFails s.env .out s.sink.pos = false → s.sink.pos = s.sink.len →
      s.sink.len.toNat < 2 ^ 64 - 1 → s.sink.mem.wf →
      ∃ m, m.wf ∧ (∀ x, memRead m x = if x = s.sink.len.toNat then cur' else memRead s.sink.mem x) ∧
        exec .bwWriteBit s = .next (ended
          { s with
            bw := { cur := 0#8, nbits := 0#3, total := s.bw.total + 1 },
            sink := { mem := m, len := s.sink.len + 1#64, pos := s.sink.len + 1#64 },
            env := askedMore s 1 } 0x00#8)) ∧
    (s.bw.nbits = 7#3 → ioFails s.env .out s.sink.pos = true → exec .bwWriteBit s = .next (ended
      { s with bw := { cur := cur', nbits := 7#3, total := s.bw.total + 1 }, env := askedMore s 1 } 0x01#8))

/-- 44_bit_writer.md R117, 20_memory.md R44: for every length up to 256 BW_WRITE_BITS sends bit 0 of the value first; the
bits join those pending in BW_CUR, every full byte goes to the end of OUT and the rest is pending. Where write number k is the
first that fails, it ends with IOError: k bytes are out, the next one stands in BW_CUR with its eighth bit placed and counted,
and BW_NBITS is 7. What OUT holds then is the literal state of 60_exceptions.md R181 and no output (R182). -/
def Obligations.BwWriteBitsAppends : Prop :=
  ∀ s : State, s.b.toNat ≤ 256 → s.sink.pos = s.sink.len → s.sink.len.toNat + 64 < 2 ^ 64 → s.sink.mem.wf →
    (NoneFails s (writeAsks s.sink.pos (s.bw.sends s.b.toNat)) →
      ∃ t bytes, exec .bwWriteBits s = .next t ∧ outBytes t = outBytes s ++ bytes ∧
        bytesBits bytes ++ pendingBits t.bw = pendingBits s.bw ++ patternBits s.a s.b.toNat ∧
        t.bw.total = s.bw.total + s.b.toNat ∧ (s.bw.Clean → t.bw.Clean) ∧ t.sink.pos = t.sink.len ∧ t.sink.mem.wf ∧
        (∀ x, t.sink.len.toNat ≤ x → memRead t.sink.mem x = memRead s.sink.mem x) ∧
        t = ended { s with bw := t.bw, sink := t.sink, env := askedMore s bytes.length } 0x00#8) ∧
    (∀ k, FirstFails s (writeAsks s.sink.pos (s.bw.sends s.b.toNat)) k →
      ∃ t bytes, exec .bwWriteBits s = .next t ∧ outBytes t = outBytes s ++ bytes ∧ bytes.length = k ∧
        bytesBits (bytes ++ [t.bw.cur]) = (pendingBits s.bw ++ patternBits s.a s.b.toNat).take (8 * (k + 1)) ∧
        t.bw.nbits = 7#3 ∧ t.bw.total + s.bw.nbits.toNat = s.bw.total + 8 * (k + 1) ∧
        t.sink.pos = t.sink.len ∧ t.sink.mem.wf ∧
        (∀ x, t.sink.len.toNat ≤ x → memRead t.sink.mem x = memRead s.sink.mem x) ∧
        t = ended { s with bw := t.bw, sink := t.sink, env := askedMore s (k + 1) } 0x01#8)

/-- 44_bit_writer.md R117 (92_eei_decisions.md D35), 46_container_format.md R132, 60_exceptions.md R179: what BW_WRITE_BITS and
CF_WRITE_HEADER refuse, in the order of the checks, with nothing written. -/
def Obligations.RefusedOperands : Prop :=
  ∀ s : State,
    (256 < s.b.toNat → exec .bwWriteBits s = .next (ended s 0x83#8)) ∧
    (ftN s.ft = 256 → exec .cfWriteHeader s = .next (ended s 0x03#8)) ∧
    (ftN s.ft < 256 → 7#8 < s.a.extractLsb 7 0 → exec .cfWriteHeader s = .next (ended s 0x83#8))

/-- 44_bit_writer.md R118, R120: a byte-aligned writer closes with 0 and no write; a partial byte goes to the end of OUT as
it stands, the pending bits and then zeros where the writer is clean (10_state.md R20), and R0 is the number of bits it lacked;
BW_TOTAL is not changed. -/
def Obligations.BwClosePads : Prop :=
  ∀ s : State,
    (s.bw.nbits = 0#3 → exec .bwClose s = .next (ended { s with r0 := 0#64 } 0x00#8)) ∧
    (s.bw.nbits ≠ 0#3 → ioFails s.env .out s.sink.pos = false → s.sink.pos = s.sink.len →
      s.sink.len.toNat < 2 ^ 64 - 1 → s.sink.mem.wf →
      ∃ m, m.wf ∧ (∀ x, memRead m x = if x = s.sink.len.toNat then s.bw.cur else memRead s.sink.mem x) ∧
        (s.bw.Clean → bytesBits [s.bw.cur] = pendingBits s.bw ++ List.replicate (8 - s.bw.nbits.toNat) false) ∧
        exec .bwClose s = .next (ended
          { s with
            bw := { cur := 0#8, nbits := 0#3, total := s.bw.total },
            sink := { mem := m, len := s.sink.len + 1#64, pos := s.sink.len + 1#64 },
            r0 := BitVec.ofNat 64 (8 - s.bw.nbits.toNat), env := askedMore s 1 } 0x00#8)) ∧
    (s.bw.nbits ≠ 0#3 → ioFails s.env .out s.sink.pos = true →
      exec .bwClose s = .next (ended { s with env := askedMore s 1 } 0x01#8))

/-- 44_bit_writer.md R119: BW_INIT, any sequence of BW_WRITE_BIT and BW_WRITE_BITS of lengths up to 256, and BW_CLOSE, issued
by the host one line after the other, append exactly ceil(N / 8) bytes for the N bits written, the bits packed most significant
first with zeros after the last; R0 is the padding count and BW_TOTAL is N. The host's list is the model's choice (log 1). -/
def Obligations.BwPacksBits : Prop :=
  ∀ (s : State) (ws : List BitWrite), s.host = packProgram ws → (∀ w ∈ ws, w.Fits) → s.env.ioFaults = [] →
    s.sink.pos = s.sink.len → s.sink.len.toNat + (ws.flatMap BitWrite.sent).length < 2 ^ 64 - 8 → s.sink.mem.wf →
    ∃ t bytes, Sys2Proof.core.run s.host.length s = .next t ∧ outBytes t = outBytes s ++ bytes ∧
      bytes.length = ((ws.flatMap BitWrite.sent).length + 7) / 8 ∧ Packs (ws.flatMap BitWrite.sent) bytes ∧
      t.r0 = BitVec.ofNat 64 (padCount (ws.flatMap BitWrite.sent).length) ∧
      t.bw = { cur := 0#8, nbits := 0#3, total := (ws.flatMap BitWrite.sent).length } ∧
      t.sink.pos = t.sink.len ∧ t.sink.mem.wf ∧
      (∀ x, t.sink.len.toNat ≤ x → memRead t.sink.mem x = memRead s.sink.mem x) ∧ t.status = 0x00#8 ∧ t.host = []

/-! ### Bit reader -/

/-- 45_bit_reader.md R126: the next bit of BR_CUR, most significant first; where none is left, a byte is fetched from IN at
IN_POS; a failed fetch leaves the reader as it was; where there is no byte EndOfStream is raised and BR_FINISHED set, and
from then on EndOfStream without any fetch. -/
def Obligations.BrReadBitGivesBit : Prop :=
  ∀ s : State,
    (s.br.left ≠ 0#4 → s.br.left ≤ 8#4 → exec .brReadBit s = .next (ended
      { s with
        br := { s.br with left := s.br.left - 1#4 },
        r0 := if s.br.cur.getLsbD (s.br.left.toNat - 1) then 1#64 else 0#64 } 0x00#8)) ∧
    (s.br.left = 0#4 → s.br.finished = false → s.src.pos < s.src.len →
      (ioFails s.env .inp s.src.pos = false → exec .brReadBit s = .next (ended
        { s with
          br := { cur := memRead s.src.mem s.src.pos.toNat, left := 7#4, finished := false },
          r0 := if (memRead s.src.mem s.src.pos.toNat).getLsbD 7 then 1#64 else 0#64,
          src := { s.src with pos := s.src.pos + 1#64 }, env := askedMore s 1 } 0x00#8)) ∧
      (ioFails s.env .inp s.src.pos = true →
        exec .brReadBit s = .next (ended { s with env := askedMore s 1 } 0x01#8))) ∧
    (s.br.left = 0#4 → s.br.finished = false → s.src.len ≤ s.src.pos →
      exec .brReadBit s = .next (ended { s with br := { s.br with finished := true } } 0x0D#8)) ∧
    (s.br.left = 0#4 → s.br.finished = true → exec .brReadBit s = .next (ended s 0x0D#8))

/-- 45_bit_reader.md R126, R127, 60_exceptions.md R184: where a byte is needed and the source has none, BR_READ_BIT raises
EndOfStream and the decoder TruncatedStream, setting BR_FINISHED; once it is set they do so without any side effect. -/
def Obligations.EndOfStream : Prop :=
  ∀ s : State, s.br.left = 0#4 →
    (s.br.finished = true → exec .brReadBit s = .next (ended s 0x0D#8) ∧
      (s.dec.valid = true → exec .decStep s = .next (ended s 0x08#8))) ∧
    (s.br.finished = false → s.src.len ≤ s.src.pos →
      exec .brReadBit s = .next (ended { s with br := { s.br with finished := true } } 0x0D#8) ∧
      (s.dec.valid = true →
        exec .decStep s = .next (ended { s with br := { s.br with finished := true } } 0x08#8)))

/-- 45_bit_reader.md R128: a new reader over packed bits gives the bits in order, then the padding zeros, then
EndOfStream. -/
def Obligations.ReaderUndoesWriter : Prop :=
  ∀ (s : State) (bits : List Bool), Packs bits (unread s) → s.env.ioFaults = [] →
    (∀ k, k < 8 * (unread s).length →
      ∃ t, Sys2Proof.core.run (k + 2)
          { s with host := .writeCmd 0x50#8 :: List.replicate (k + 1) (.writeCmd 0x51#8) } = .next t ∧
        t.status = 0x00#8 ∧ t.r0 = if bits.getD k false then 1#64 else 0#64) ∧
    ∃ t, Sys2Proof.core.run (8 * (unread s).length + 2)
        { s with host := .writeCmd 0x50#8 :: List.replicate (8 * (unread s).length + 1) (.writeCmd 0x51#8) } = .next t ∧
      t.status = 0x0D#8

/-! ### Container -/

/-- 46_container_format.md R131, 30_encoding.md R60: CF_WRITE_HEADER appends the 12 + 5n bytes of the header. Where write
number k is the first that fails, it ends with IOError with the k bytes before it written. What OUT holds then is the literal
state of 60_exceptions.md R181 and no container (R182). -/
def Obligations.CfWriteHeaderAppends : Prop :=
  ∀ s : State, ftN s.ft ≤ 255 → s.a.extractLsb 7 0 ≤ 7#8 → s.sink.pos = s.sink.len →
    s.sink.len.toNat + 2048 < 2 ^ 64 → s.sink.mem.wf →
    (NoneFails s (writeAsks s.sink.pos (12 + 5 * ftN s.ft)) →
      ∃ t, exec .cfWriteHeader s = .next t ∧
        outBytes t = outBytes s ++ headerOf s.b (BitVec.ofNat 8 (ftN s.ft)) (s.a.extractLsb 7 0) (entriesOf s.ft) ∧
        t.sink.pos = t.sink.len ∧ t.sink.len.toNat = s.sink.len.toNat + 12 + 5 * ftN s.ft ∧ t.sink.mem.wf ∧
        (∀ x, t.sink.len.toNat ≤ x → memRead t.sink.mem x = memRead s.sink.mem x) ∧
        t = ended { s with sink := t.sink, env := askedMore s (12 + 5 * ftN s.ft) } 0x00#8) ∧
    (∀ k, FirstFails s (writeAsks s.sink.pos (12 + 5 * ftN s.ft)) k →
      ∃ t, exec .cfWriteHeader s = .next t ∧
        outBytes t = outBytes s ++
          (headerOf s.b (BitVec.ofNat 8 (ftN s.ft)) (s.a.extractLsb 7 0) (entriesOf s.ft)).take k ∧
        t.sink.pos = t.sink.len ∧ t.sink.len.toNat = s.sink.len.toNat + k ∧ t.sink.mem.wf ∧
        (∀ x, t.sink.len.toNat ≤ x → memRead t.sink.mem x = memRead s.sink.mem x) ∧
        t = ended { s with sink := t.sink, env := askedMore s (k + 1) } 0x01#8)

/-- 46_container_format.md R133, R134, R135, R136: where no read fails, CF_READ_HEADER reads every header that is there in
full, with any size, padding byte, entries in any order, a symbol twice or none at all; a later frequency replaces an earlier one
in FT. Where read number k is the first that fails, of any source, it ends with IOError, IN_POS after the k bytes before it, the
four flags 0, and the fields and entries that are in held by the HDR registers and FT. -/
def Obligations.CfReadHeaderReads : Prop :=
  (∀ (s : State) (z : Word) (n p : Byte) (ents : List HdrEntry) (rest : List Byte),
    NoneFails s (readAsks s.src.pos (12 + 5 * ents.length)) →
    ents.length = n.toNat → unread s = headerOf z n p ents ++ rest →
    ∃ ent' : Vector HdrEntry 255, exec .cfReadHeader s = .next (ended
        { s with
          tree := { s.tree with valid := false }, codes := { s.codes with valid := false },
          dec := { s.dec with valid := false }, ft := tableOf ents,
          hdr := { magic := 0x4846#16, size := z, num := n, pad := p, ent := ent', valid := true },
          src := { s.src with pos := s.src.pos + BitVec.ofNat 64 (12 + 5 * ents.length) },
          env := askedMore s (12 + 5 * ents.length) } 0x00#8) ∧
      (∀ i, i < ents.length → ent'[i]? = ents[i]?) ∧ (∀ i, ents.length ≤ i → ent'[i]? = s.hdr.ent[i]?)) ∧
  (∀ (s : State) (k : Nat), FirstFails s (readAsks s.src.pos (headerReads (unread s))) k →
    ∃ hdr', HeaderAfter s.hdr ((unread s).take k) hdr' ∧ exec .cfReadHeader s = .next (ended
      { s with
        tree := { s.tree with valid := false }, codes := { s.codes with valid := false },
        dec := { s.dec with valid := false }, ft := tableOf (wholeEntries (((unread s).take k).drop 12)), hdr := hdr',
        src := { s.src with pos := s.src.pos + BitVec.ofNat 64 k }, env := askedMore s (k + 1) } 0x01#8))

/-- 46_container_format.md R133, R136: where no read fails, a wrong magic is BadMagic and an input that ends inside the header
TruncatedHeader; both leave the four flags 0 and the fields and entries that are in held by the HDR registers and FT. -/
def Obligations.CfReadHeaderFaults : Prop :=
  ∀ s : State, NoneFails s (readAsks s.src.pos (headerReads (unread s))) →
    (∀ m0 m1 rest, unread s = m0 :: m1 :: rest → m0 ≠ 0x48#8 ∨ m1 ≠ 0x46#8 →
      ∃ ft' : Vector FtEntry 256, exec .cfReadHeader s = .next (ended
          { s with
            tree := { s.tree with valid := false }, codes := { s.codes with valid := false },
            dec := { s.dec with valid := false }, ft := ft',
            hdr := { s.hdr with magic := m0 ++ m1, valid := false },
            src := { s.src with pos := s.src.pos + 2#64 }, env := askedMore s 2 } 0x06#8) ∧
        ∀ x, ftAt ft' x = { present := false, count := 0#32 }) ∧
    (HeaderTruncated (unread s) →
      ∃ hdr', HeaderAfter s.hdr (unread s) hdr' ∧ exec .cfReadHeader s = .next (ended
        { s with
          tree := { s.tree with valid := false }, codes := { s.codes with valid := false },
          dec := { s.dec with valid := false }, ft := tableOf (wholeEntries ((unread s).drop 12)), hdr := hdr',
          src := { s.src with pos := s.src.pos + BitVec.ofNat 64 (unread s).length },
          env := askedMore s (unread s).length } 0x07#8))

/-- 46_container_format.md R137: what CF_WRITE_HEADER appends, CF_READ_HEADER recovers, on any state of the reader. -/
def Obligations.HeaderRoundTrip : Prop :=
  ∀ (s t u : State) (h : List Byte), s.env.ioFaults = [] → FtCanonical s.ft → s.sink.pos = s.sink.len →
    s.sink.len.toNat + 2048 < 2 ^ 64 → s.sink.mem.wf →
    exec .cfWriteHeader s = .next t → t.status = 0x00#8 → outBytes t = outBytes s ++ h →
    u.env.ioFaults = [] → unread u = h →
    ∃ v, exec .cfReadHeader u = .next v ∧ v.status = 0x00#8 ∧ v.hdr.valid = true ∧ v.hdr.size = s.b ∧
      v.hdr.num.toNat = ftN s.ft ∧ v.hdr.pad = s.a.extractLsb 7 0 ∧ v.ft = s.ft ∧
      ∀ i, i < ftN s.ft → v.hdr.ent[i]? = (entriesOf s.ft)[i]?

/-! ### Compression -/

/-- 47_compress_sequencer.md R141, R142: no byte is EmptyInput at step 2, and all 256 byte values, where no read of the scan
fails, AlphabetTooLarge at step 3; OUT with its cursors stays as it was. -/
def Obligations.CompressRefusals : Prop :=
  ∀ s : State,
    (inBytes s = [] → ∃ t, exec .compress s = .next t ∧ t.status = 0x02#8 ∧ t.seqStep = 2#4 ∧ t.sink = s.sink) ∧
    ((∀ v : Byte, v ∈ inBytes s) → (∀ v, (inBytes s).count v < 2 ^ 32) → NoneFails s (readAsks 0#64 (inBytes s).length) →
      ∃ t, exec .compress s = .next t ∧ t.status = 0x03#8 ∧ t.seqStep = 3#4 ∧ t.sink = s.sink)

/-- 47_compress_sequencer.md R148, R141, R74, 30_encoding.md R60, R66, R75: for every input of 1 to 255 distinct byte values,
none 2^32 times or more, let v be the state TB_BUILD makes from the table of the input's counts and u the one CG_GENERATE makes of
v. Where no access fails, as with the default oracle, COMPRESS completes from every state: FT is that table, the tree and the queue
are v's, the codes u's, every byte of the input has a code, and OUT is the header of the input and the payload packed with these
codes. That CMD keeps its value and that the host's list is not touched are the model's (log 17, log 1). -/
def Obligations.CompressWritesContainer : Prop :=
  ∀ s : State, s.sink.mem.wf → inBytes s ≠ [] → (∃ x : Byte, x ∉ inBytes s) → (∀ x, (inBytes s).count x < 2 ^ 32) →
    ∃ v u, exec .tbBuild { s with ft := tableOf (countsOf (inBytes s)) } = .next v ∧ exec .cgGenerate v = .next u ∧
      v.status = 0x00#8 ∧ u.status = 0x00#8 ∧ v.tree.valid = true ∧ u.codes.valid = true ∧ v.queue.entries = [] ∧
      (∀ x ∈ inBytes s, (ctAt u.codes.ct x).valid = true ∧ 1 ≤ (ctAt u.codes.ct x).len.toNat) ∧
      (NoneFails s (compressAsks u.codes.ct (inBytes s)) →
        ∃ t payload, exec .compress s = .next t ∧
          outBytes t = headerOf s.src.len (BitVec.ofNat 8 (distinctSyms (inBytes s)).length)
              (BitVec.ofNat 8 (padCount (payloadBits u.codes.ct (inBytes s)).length)) (countsOf (inBytes s)) ++ payload ∧
          Packs (payloadBits u.codes.ct (inBytes s)) payload ∧ t.sink.pos = t.sink.len ∧ t.sink.mem.wf ∧
          (∀ x, t.sink.len.toNat ≤ x → memRead t.sink.mem x = memRead s.sink.mem x) ∧
          t = { s with
                status := 0x00#8, seqStep := 0#4, ft := tableOf (countsOf (inBytes s)), tree := v.tree, queue := v.queue
                codes := u.codes, dec := { s.dec with valid := false }
                bw := { cur := 0#8, nbits := 0#3, total := (payloadBits u.codes.ct (inBytes s)).length }
                src := { s.src with pos := s.src.len }, sink := t.sink
                env := askedMore s (compressAsks u.codes.ct (inBytes s)).length })

/-- 47_compress_sequencer.md R146, 40_frequency_table.md R83, 60_exceptions.md R188: the only pairs of STATUS and SEQ_STEP
that COMPRESS can leave, from any state and with any oracle; a fault before step 5 leaves OUT as it was. A failed read of the scan
is (IOError, 1) and a value that occurs 2^32 times or more (FreqOverflow, 1), whichever comes first; on an input of 1 to 255
distinct byte values, none 2^32 times or more, the first access that fails is an IOError at the step that asks it: 1 a read of the
scan, 5 a write of the header, 6 a read or a flush of the encoding, 7 the final flush, 8 the patch, and OUT holds what was written
before it of the header with paddingBits 0 and the payload. CompressRefusals gives the causes of steps 2 and 3. What OUT holds after
a fault is the literal state of 60_exceptions.md R181 and no container (R182). -/
def Obligations.CompressFaultTable : Prop :=
  ∀ s : State,
    (∃ t, exec .compress s = .next t ∧
      (t.status, t.seqStep) ∈ [(0x00#8, 0#4), (0x01#8, 1#4), (0x81#8, 1#4), (0x02#8, 2#4), (0x03#8, 3#4),
        (0x01#8, 5#4), (0x01#8, 6#4), (0x01#8, 7#4), (0x01#8, 8#4)] ∧
      (1#4 ≤ t.seqStep → t.seqStep ≤ 4#4 → t.sink = s.sink)) ∧
    (∀ k, FirstFails s (readAsks 0#64 (inBytes s).length) k → (∀ x, ((inBytes s).take k).count x < 2 ^ 32) →
      ∃ t, exec .compress s = .next t ∧ t.status = 0x01#8 ∧ t.seqStep = 1#4) ∧
    (∀ done, OverflowsAfter (inBytes s) done → NoneFails s (readAsks 0#64 (done.length + 1)) →
      ∃ t, exec .compress s = .next t ∧ t.status = 0x81#8 ∧ t.seqStep = 1#4) ∧
    ((∃ x, 2 ^ 32 ≤ (inBytes s).count x) → NoneFails s (readAsks 0#64 (inBytes s).length) →
      ∃ t, exec .compress s = .next t ∧ t.status = 0x81#8 ∧ t.seqStep = 1#4) ∧
    (s.sink.mem.wf → inBytes s ≠ [] → (∃ x : Byte, x ∉ inBytes s) → (∀ x, (inBytes s).count x < 2 ^ 32) →
      ∀ (v u : State) (k : Nat) (n : BitVec 4) (a : Access) (payload : List Byte),
        exec .tbBuild { s with ft := tableOf (countsOf (inBytes s)) } = .next v → exec .cgGenerate v = .next u →
        FirstFails s (compressAsks u.codes.ct (inBytes s)) k →
        (compressSteps u.codes.ct (inBytes s))[k]? = some (n, a) → Packs (payloadBits u.codes.ct (inBytes s)) payload →
        ∃ t, exec .compress s = .next t ∧ t.status = 0x01#8 ∧ t.seqStep = n ∧ (5#4 ≤ n → outBytes t =
          (headerOf s.src.len (BitVec.ofNat 8 (distinctSyms (inBytes s)).length) 0#8 (countsOf (inBytes s)) ++ payload).take
            (k - readCount ((compressAsks u.codes.ct (inBytes s)).take k))))

/-- 47_compress_sequencer.md R144: with valid codes for every unread byte and no access that fails, ENCODE_STREAM completes:
the wire bits of the codes join those pending, and every full byte goes to the end of OUT. Where access number k is the first
that fails, with r reads and k - r writes before it, it ends with IOError: after a failed read the codes of the r bytes are
written; after a failed write k - r bytes of their codes are out, the next one stands in BW_CUR with its eighth bit placed and
counted, and BW_NBITS is 7. What OUT holds then is the literal state of 60_exceptions.md R181 and no output (R182). -/
def Obligations.EncodeStreamWrites : Prop :=
  ∀ (s : State) (asks : List Access), s.codes.valid = true → s.sink.pos = s.sink.len →
    s.sink.len.toNat + 32 * (unread s).length + 1 < 2 ^ 64 → s.sink.mem.wf →
    asks = encodeAsks s.codes.ct s.bw.nbits.toNat (unread s) s.src.pos s.sink.pos →
    (NoneFails s asks → (∀ v ∈ unread s, (ctAt s.codes.ct v).valid = true) →
      ∃ t bytes, exec .encodeStream s = .next t ∧ outBytes t = outBytes s ++ bytes ∧
        bytesBits bytes ++ pendingBits t.bw = pendingBits s.bw ++ payloadBits s.codes.ct (unread s) ∧
        t.bw.total = s.bw.total + (payloadBits s.codes.ct (unread s)).length ∧ (s.bw.Clean → t.bw.Clean) ∧
        t.sink.pos = t.sink.len ∧ t.sink.mem.wf ∧
        (∀ x, t.sink.len.toNat ≤ x → memRead t.sink.mem x = memRead s.sink.mem x) ∧
        t = ended { s with bw := t.bw, sink := t.sink,
                           src := { s.src with pos := s.src.pos + BitVec.ofNat 64 (unread s).length },
                           env := askedMore s ((unread s).length + bytes.length) } 0x00#8) ∧
    (∀ k r, FirstFails s asks k → r = readCount (asks.take k) →
      (∀ v ∈ (unread s).take r, (ctAt s.codes.ct v).valid = true) →
      ∃ t bytes, exec .encodeStream s = .next t ∧ outBytes t = outBytes s ++ bytes ∧ bytes.length = k - r ∧
        ((asks[k]?).map Prod.fst = some .inp →
          bytesBits bytes ++ pendingBits t.bw = pendingBits s.bw ++ payloadBits s.codes.ct ((unread s).take r) ∧
          t.bw.total = s.bw.total + (payloadBits s.codes.ct ((unread s).take r)).length ∧ (s.bw.Clean → t.bw.Clean)) ∧
        ((asks[k]?).map Prod.fst = some .out →
          bytesBits (bytes ++ [t.bw.cur]) =
            (pendingBits s.bw ++ payloadBits s.codes.ct ((unread s).take r)).take (8 * (bytes.length + 1)) ∧
          t.bw.nbits = 7#3 ∧ t.bw.total + s.bw.nbits.toNat = s.bw.total + 8 * (bytes.length + 1)) ∧
        t.sink.pos = t.sink.len ∧ t.sink.mem.wf ∧
        (∀ x, t.sink.len.toNat ≤ x → memRead t.sink.mem x = memRead s.sink.mem x) ∧
        t = ended { s with bw := t.bw, sink := t.sink, src := { s.src with pos := s.src.pos + BitVec.ofNat 64 r },
                           env := askedMore s (k + 1) } 0x01#8)

/-- 47_compress_sequencer.md R144: the first unread byte without a code raises MissingCode after the codes of the bytes
before it are written: their wire bits join those pending, and every full byte goes to the end of OUT; IN_POS stands after the
offending byte. What OUT holds then is the literal state of 60_exceptions.md R181 and no output (R182). -/
def Obligations.EncodeStreamMissingCode : Prop :=
  ∀ (s : State) (done rest : List Byte) (v : Byte), s.codes.valid = true →
    unread s = done ++ v :: rest → (∀ x ∈ done, (ctAt s.codes.ct x).valid = true) → (ctAt s.codes.ct v).valid = false →
    s.sink.pos = s.sink.len → s.sink.len.toNat + 32 * done.length + 1 < 2 ^ 64 → s.sink.mem.wf →
    NoneFails s (encodeAsks s.codes.ct s.bw.nbits.toNat done s.src.pos s.sink.pos ++
      [(.inp, s.src.pos + BitVec.ofNat 64 done.length)]) →
    ∃ t bytes, exec .encodeStream s = .next t ∧ outBytes t = outBytes s ++ bytes ∧
      bytesBits bytes ++ pendingBits t.bw = pendingBits s.bw ++ payloadBits s.codes.ct done ∧
      t.bw.total = s.bw.total + (payloadBits s.codes.ct done).length ∧ (s.bw.Clean → t.bw.Clean) ∧
      t.sink.pos = t.sink.len ∧ t.sink.mem.wf ∧
      (∀ x, t.sink.len.toNat ≤ x → memRead t.sink.mem x = memRead s.sink.mem x) ∧
      t = ended { s with bw := t.bw, sink := t.sink,
                         src := { s.src with pos := s.src.pos + BitVec.ofNat 64 (done.length + 1) },
                         env := askedMore s (done.length + 1 + bytes.length) } 0x82#8

/-- 47_compress_sequencer.md R145, 20_memory.md R49: PATCH_PADDING overwrites byte 11 of OUT and no other, and leaves the
cursor and the length; a value above 7 is BadOperand, and without a byte 11 it is NotReady, in this order. -/
def Obligations.PatchPaddingWrites : Prop :=
  ∀ s : State,
    (7#8 < s.a.extractLsb 7 0 → exec .patchPadding s = .next (ended s 0x83#8)) ∧
    (s.a.extractLsb 7 0 ≤ 7#8 → s.sink.len ≤ 11#64 → exec .patchPadding s = .next (ended s 0x85#8)) ∧
    (s.a.extractLsb 7 0 ≤ 7#8 → 11#64 < s.sink.len → s.sink.mem.wf → ioFails s.env .out 11#64 = false →
      ∃ m, m.wf ∧ (∀ x, memRead m x = if x = 11 then s.a.extractLsb 7 0 else memRead s.sink.mem x) ∧
        exec .patchPadding s =
          .next (ended { s with sink := { s.sink with mem := m }, env := askedMore s 1 } 0x00#8)) ∧
    (s.a.extractLsb 7 0 ≤ 7#8 → 11#64 < s.sink.len → ioFails s.env .out 11#64 = true →
      exec .patchPadding s = .next (ended { s with env := askedMore s 1 } 0x01#8))

/-! ### Decoding -/

/-- 48_decode_traversal.md R157, R161, 45_bit_reader.md R126: one bit b of the traversal, with u the state after the bit is
read: to an Internal child without a symbol, to a leaf whose symbol goes to the end of OUT, or to a dead end or the filler,
which is CorruptStream with the bit consumed. Where the bit needs a byte and its read fails, IOError with nothing consumed. -/
def Obligations.DecStepWalks : Prop :=
  (∀ (s u : State) (b : Bool) (nd : Node), s.dec.valid = true →
    ((s.br.left ≠ 0#4 ∧ s.br.left ≤ 8#4 ∧ b = s.br.cur.getLsbD (s.br.left.toNat - 1) ∧
        u = { s with br := { s.br with left := s.br.left - 1#4 } }) ∨
      (s.br.left = 0#4 ∧ s.br.finished = false ∧ s.src.pos < s.src.len ∧ ioFails s.env .inp s.src.pos = false ∧
        b = (memRead s.src.mem s.src.pos.toNat).getLsbD 7 ∧
        u = { s with
              br := { cur := memRead s.src.mem s.src.pos.toNat, left := 7#4, finished := false },
              src := { s.src with pos := s.src.pos + 1#64 }, env := askedMore s 1 })) →
    nodeAt s.tree.node s.dec.cur = some nd →
    (∀ ch, nodeAt s.tree.node (if b then nd.right else nd.left) = some ch →
      (ch.kind = .internal → exec .decStep s = .next (ended
        { u with dec := { s.dec with cur := if b then nd.right else nd.left }, r0 := 0#64 } 0x00#8)) ∧
      (ch.kind = .leaf → ch.filler = true → exec .decStep s = .next (ended u 0x0A#8)) ∧
      (ch.kind = .leaf → ch.filler = false → ioFails u.env .out u.sink.pos = true →
        exec .decStep s = .next (ended { u with env := askedMore u 1 } 0x01#8)) ∧
      (ch.kind = .leaf → ch.filler = false → ioFails u.env .out u.sink.pos = false → u.sink.pos = u.sink.len →
        u.sink.len.toNat < 2 ^ 64 - 1 → u.sink.mem.wf → s.dec.count ≠ BitVec.allOnes 64 →
        ∃ m, m.wf ∧ (∀ x, memRead m x = if x = u.sink.len.toNat then ch.sym else memRead u.sink.mem x) ∧
          exec .decStep s = .next (ended
            { u with
              sink := { mem := m, len := u.sink.len + 1#64, pos := u.sink.len + 1#64 },
              dec := { s.dec with cur := s.tree.root, count := s.dec.count + 1#64 },
              r0 := 1#64, r1 := ch.sym.zeroExtend 64, env := askedMore u 1 } 0x00#8))) ∧
    ((if b then nd.right else nd.left) = 0x1FF#9 → exec .decStep s = .next (ended u 0x0A#8))) ∧
  (∀ s : State, s.dec.valid = true → s.br.left = 0#4 → s.br.finished = false → s.src.pos < s.src.len →
    ioFails s.env .inp s.src.pos = true → exec .decStep s = .next (ended { s with env := askedMore s 1 } 0x01#8))

/-- 48_decode_traversal.md R157, R159, R161, R162: where no access fails DEC_STREAM does what the bits spell, with w the walk
from DEC_CUR for HDR_SIZE - DEC_COUNT symbols over the bits still to be read. Its symbols go to the end of OUT, DEC_CUR is its end
(ROOT after a last symbol) and the reader and IN_POS have moved past exactly the bits it used, so no bit is read once DEC_COUNT =
HDR_SIZE; it ends Ok where the walk reaches its last symbol, with TruncatedStream where the bits run out and with CorruptStream
where one leads to the filler. Where access number k is the first that fails, with r reads before it, it ends with IOError: a
failed read leaves the walk over the bits of the bytes in hand, a failed write the walk up to the last bit of the symbol not
written, that bit consumed. From every state and with every oracle, Ok is left only with DEC_COUNT at HDR_SIZE, or where it
already stood above it with DEC_COUNT unchanged. What OUT holds after a fault is the literal state of 60_exceptions.md R181 and no
output (R182). -/
def Obligations.DecStreamDecodes : Prop :=
  (∀ (s : State) (n : Nat) (asks : List Access), s.dec.valid = true → s.hdr.valid = true → TreeInv s.tree →
    s.dec.cur.toNat < s.tree.cnt.toNat → (recordAt s.tree s.dec.cur.toNat).kind = .internal →
    s.br.left ≤ 8#4 → s.sink.mem.wf → s.sink.pos = s.sink.len → s.sink.len.toNat + s.hdr.size.toNat < 2 ^ 64 →
    n = s.hdr.size.toNat - s.dec.count.toNat →
    asks = decodeAsks s.tree s.dec.cur n s.br.left.toNat s.src.pos s.sink.pos (availableBits s) →
    (∀ w, NoneFails s asks → w = decodeWalk s.tree s.dec.cur n (availableBits s) →
      (∃ m, Holds s.sink.mem m s.sink.len.toNat w.syms ∧ exec .decStream s = .next (ended
        { s with
          br := { s.br.after (unread s) w.used with finished := s.br.finished || decide (w.outcome = .ranOut) }
          src := { s.src with pos := s.src.pos + BitVec.ofNat 64 (s.br.fetched w.used) }
          dec := { cur := w.node, count := s.dec.count + BitVec.ofNat 64 w.syms.length, valid := true }
          sink := { mem := m, len := s.sink.len + BitVec.ofNat 64 w.syms.length
                    pos := s.sink.len + BitVec.ofNat 64 w.syms.length }
          env := askedMore s (s.br.fetched w.used + w.syms.length) } w.outcome.status)) ∧
      (w.outcome = .reached → 0 < n → w.syms.length = n ∧ w.node = s.tree.root)) ∧
    (∀ k r used w, FirstFails s asks k → r = readCount (asks.take k) →
      ((asks[k]?).map Prod.fst = some .inp ∧ used = s.br.left.toNat + 8 * r ∧
          w = decodeWalk s.tree s.dec.cur n ((availableBits s).take used) ∨
        (asks[k]?).map Prod.fst = some .out ∧
          used = (decodeWalk s.tree s.dec.cur (k - r + 1) (availableBits s)).used ∧
          w = decodeWalk s.tree s.dec.cur n ((availableBits s).take (used - 1))) →
      w.syms.length = k - r ∧
      ∃ m, Holds s.sink.mem m s.sink.len.toNat w.syms ∧ exec .decStream s = .next (ended
        { s with
          br := s.br.after (unread s) used
          src := { s.src with pos := s.src.pos + BitVec.ofNat 64 r }
          dec := { cur := w.node, count := s.dec.count + BitVec.ofNat 64 w.syms.length, valid := true }
          sink := { mem := m, len := s.sink.len + BitVec.ofNat 64 w.syms.length
                    pos := s.sink.len + BitVec.ofNat 64 w.syms.length }
          env := askedMore s (k + 1) } 0x01#8))) ∧
  (∀ s t : State, exec .decStream s = .next t → t.status = 0x00#8 →
    t.hdr = s.hdr ∧ (s.dec.count ≤ s.hdr.size → t.dec.count = s.hdr.size) ∧
    (s.hdr.size < s.dec.count → t.dec.count = s.dec.count))

/-- 48_decode_traversal.md R156, R157, R159, R161, R162: after a complete header with a size and entries, where no access fails,
DECOMPRESS does what the payload spells, with w the walk from the root of the tree that TB_BUILD makes of the header's table, for originalSize
symbols over the bits of the payload. OUT is its symbols, DEC_CUR its end (the root after the last symbol), and the reader and
IN_POS have moved past exactly the bits it used; Ok where the walk reaches its last symbol, TruncatedStream at step 6 where the
bits run out, CorruptStream at step 5 where one leads to the filler. That CMD keeps its value and that the host's list is not
touched are the model's (log 17, log 1). What OUT holds after a fault is the literal state of 60_exceptions.md R181 and no output
(R182). -/
def Obligations.DecompressDecodes : Prop :=
  ∀ (s v : State) (z : Word) (n p : Byte) (ents : List HdrEntry) (payload : List Byte) (w : Walk),
    s.sink.mem.wf → ents.length = n.toNat → inBytes s = headerOf z n p ents ++ payload → z ≠ 0#64 → n ≠ 0#8 →
    exec .tbBuild { s with ft := tableOf ents } = .next v →
    NoneFails s (decompressAsks v.tree z ents.length payload) →
    w = decodeWalk v.tree v.tree.root z.toNat (bytesBits payload) →
    (∃ (ent' : Vector HdrEntry 255) (m : Memory), Holds s.sink.mem m 0 w.syms ∧
      (∀ i, i < ents.length → ent'[i]? = ents[i]?) ∧ (∀ i, ents.length ≤ i → ent'[i]? = s.hdr.ent[i]?) ∧
      exec .decompress s = .next
        { s with
          status := w.outcome.status, seqStep := w.outcome.seqStep, ft := tableOf ents, tree := v.tree, queue := v.queue
          codes := { s.codes with valid := false }
          hdr := { magic := 0x4846#16, size := z, num := n, pad := p, ent := ent', valid := true }
          br := { BitReader.init.after payload w.used with finished := decide (w.outcome = .ranOut) }
          dec := { cur := w.node, count := BitVec.ofNat 64 w.syms.length, valid := true }
          src := { s.src with
                   pos := BitVec.ofNat 64 (12 + 5 * ents.length + BitReader.init.fetched w.used) }
          sink := { mem := m, len := BitVec.ofNat 64 w.syms.length, pos := BitVec.ofNat 64 w.syms.length }
          env := askedMore s (12 + 5 * ents.length + BitReader.init.fetched w.used + w.syms.length) }) ∧
    v.tree.valid = true ∧ v.queue.entries = [] ∧
    (w.outcome = .reached → w.syms.length = z.toNat ∧ w.node = v.tree.root)

/-- 48_decode_traversal.md R156, R159, 42_tree_builder.md R99: conditions on the container alone under which DECOMPRESS
completes: a full header of at least two symbols with 255 payload bits for every byte of the original, or a header of one
symbol with as many zero bits as the original has bytes. -/
def Obligations.DecompressCompletes : Prop :=
  ∀ (s : State) (z : Word) (n p : Byte) (ents : List HdrEntry) (payload : List Byte), s.env.ioFaults = [] →
    s.sink.mem.wf → ents.length = n.toNat → inBytes s = headerOf z n p ents ++ payload → z ≠ 0#64 →
    ((∃ e ∈ ents, ∃ f ∈ ents, e.sym ≠ f.sym) → 255 * z.toNat ≤ 8 * payload.length →
      ∃ t, exec .decompress s = .next t ∧ t.status = 0x00#8 ∧ t.seqStep = 0#4 ∧ t.sink.len = z ∧ t.dec.count = z ∧
        ∀ x ∈ outBytes t, x ∈ ents.map HdrEntry.sym) ∧
    (∀ x, ents ≠ [] → (∀ e ∈ ents, e.sym = x) → z.toNat ≤ 8 * payload.length →
      (∀ b ∈ (bytesBits payload).take z.toNat, b = false) →
      ∃ t, exec .decompress s = .next t ∧ t.status = 0x00#8 ∧ t.seqStep = 0#4 ∧
        outBytes t = List.replicate z.toNat x)

/-- 48_decode_traversal.md R162, R156, R159, R160: the only pairs of STATUS and SEQ_STEP that DECOMPRESS can leave, from any
state, on any input and with any oracle; a fault before step 4 leaves OUT as it was; Ok is left only with OUT_POS = OUT_LEN =
DEC_COUNT = HDR_SIZE. A failed read of the header is (IOError, 1); where the header's reads do not fail, a wrong magic is
(BadMagic, 1), an input that ends inside the header (TruncatedHeader, 1), a complete header with size 0 or without entries
(CorruptHeader, 2), and after any other header a failed read of the payload is (IOError, 4) and a failed write of OUT (IOError, 7)
(log 15), with the symbols before it in OUT, the literal state of 60_exceptions.md R181 (R182). DecompressDecodes gives the
outcome of every other input, CorruptStream and TruncatedStream among them. -/
def Obligations.DecompressFaultTable : Prop :=
  ∀ s : State,
    (∃ t, exec .decompress s = .next t ∧
      (t.status, t.seqStep) ∈ [(0x00#8, 0#4), (0x07#8, 1#4), (0x06#8, 1#4), (0x01#8, 1#4), (0x09#8, 2#4), (0x01#8, 4#4),
        (0x0A#8, 5#4), (0x08#8, 6#4), (0x01#8, 7#4)] ∧
      (1#4 ≤ t.seqStep → t.seqStep ≤ 3#4 → t.sink = s.sink) ∧
      (t.status = 0x00#8 → t.sink.len = t.hdr.size ∧ t.dec.count = t.hdr.size ∧ t.sink.pos = t.sink.len ∧
        t.hdr.size ≠ 0#64)) ∧
    (∀ k, FirstFails s (readAsks 0#64 (headerReads (inBytes s))) k →
      ∃ t, exec .decompress s = .next t ∧ t.status = 0x01#8 ∧ t.seqStep = 1#4) ∧
    (NoneFails s (readAsks 0#64 (headerReads (inBytes s))) →
      (∀ m0 m1 rest, inBytes s = m0 :: m1 :: rest → m0 ≠ 0x48#8 ∨ m1 ≠ 0x46#8 →
        ∃ t, exec .decompress s = .next t ∧ t.status = 0x06#8 ∧ t.seqStep = 1#4) ∧
      (HeaderTruncated (inBytes s) → ∃ t, exec .decompress s = .next t ∧ t.status = 0x07#8 ∧ t.seqStep = 1#4) ∧
      (∀ (z : Word) (n p : Byte) (ents : List HdrEntry) (payload : List Byte), ents.length = n.toNat →
        inBytes s = headerOf z n p ents ++ payload →
        (z = 0#64 ∨ n = 0#8 → ∃ t, exec .decompress s = .next t ∧ t.status = 0x09#8 ∧ t.seqStep = 2#4) ∧
        (∀ v k, z ≠ 0#64 → n ≠ 0#8 → s.sink.mem.wf → exec .tbBuild { s with ft := tableOf ents } = .next v →
          FirstFails s (decompressAsks v.tree z ents.length payload) k →
          ∃ t, exec .decompress s = .next t ∧ t.status = 0x01#8 ∧
            ((decompressAsks v.tree z ents.length payload)[k]?.map Prod.fst = some .inp → t.seqStep = 4#4) ∧
            ((decompressAsks v.tree z ents.length payload)[k]?.map Prod.fst = some .out → t.seqStep = 7#4) ∧
            outBytes t = (decodeWalk v.tree v.tree.root z.toNat (bytesBits payload)).syms.take
              (k - readCount ((decompressAsks v.tree z ents.length payload).take k)))))

/-- 47_compress_sequencer.md R147, 48_decode_traversal.md R165: the composite commands depend on IN, IN_LEN and the parameters
alone: two states that agree on those end with the same STATUS and SEQ_STEP and, where the command succeeds, the same
output. -/
def Obligations.SelfContained : Prop :=
  ∀ (i : Instr) (s u : State), i = .compress ∨ i = .decompress → s.src.mem = u.src.mem → s.src.len = u.src.len →
    s.env = u.env → s.sink.mem.wf → u.sink.mem.wf →
    ∃ t v, exec i s = .next t ∧ exec i u = .next v ∧ t.status = v.status ∧ t.seqStep = v.seqStep ∧
      (t.status = 0x00#8 → outBytes t = outBytes v)

/-- 49_verifier_boundary.md R172, 47_compress_sequencer.md R148: the round trip. For every input of 1 to 255 distinct byte
values, none 2^32 times or more, and from every two states, with any tie-break that both use: COMPRESS ends Ok, and
DECOMPRESS of its output ends Ok with the original bytes. -/
def Obligations.RoundTrip : Prop :=
  ∀ s u : State, s.env.ioFaults = [] → u.env.ioFaults = [] → s.env.tieRank = u.env.tieRank →
    s.sink.mem.wf → u.sink.mem.wf → inBytes s ≠ [] → (∃ v : Byte, v ∉ inBytes s) →
    (∀ v, (inBytes s).count v < 2 ^ 32) →
    ∃ t, exec .compress s = .next t ∧ t.status = 0x00#8 ∧
      (inBytes u = outBytes t →
        ∃ v, exec .decompress u = .next v ∧ v.status = 0x00#8 ∧ outBytes v = inBytes s ∧
          verify (inBytes s) (outBytes v) = .ok)

/-! ### The whole machine -/

/-- 49_verifier_boundary.md R171: the length test comes first, then the first differing offset. -/
def Obligations.VerifierAnswers : Prop :=
  ∀ x y : List Byte,
    (verify x y = .ok ↔ x = y) ∧ (verify x y = .sizeMismatch ↔ x.length ≠ y.length) ∧
    (∀ i, verify x y = .contentMismatch i ↔
      x.length = y.length ∧ x[i]? ≠ y[i]? ∧ ∀ j, j < i → x[j]? = y[j]?)

/-- 10_state.md R28: the invariant holds at reset. -/
def Obligations.InvReset : Prop := Inv State.reset

/-- 10_state.md R15, R16, R20, R21, R24, R26, R27: from every state that meets the invariant, every step, a command or a host
action, gives a state that meets it. -/
def Obligations.InvStep : Prop := ∀ s t : State, Inv s → step s = .next t → Inv t

/-- 60_exceptions.md R186, R178: in every state that meets the invariant the machine goes on: no input and no command makes a
rule undefined. -/
def Obligations.EveryCommandEnds : Prop := ∀ s : State, Inv s → ∃ t, step s = .next t

/-- 10_state.md R10, R25, 60_exceptions.md R181: no command writes A, B, IN or IN_LEN; R0 and R1 are written by the commands
that give a result, and only when they succeed. That none writes CMD (log 17), the host's list (log 1) or the parameters (log 6,
log 7) rests on the model's choices. -/
def Obligations.OperandsAndResults : Prop :=
  ∀ (i : Instr) (s t : State), exec i s = .next t →
    t.a = s.a ∧ t.b = s.b ∧ t.cmd = s.cmd ∧ t.host = s.host ∧ t.src.mem = s.src.mem ∧ t.src.len = s.src.len ∧
    t.env.tieRank = s.env.tieRank ∧ t.env.ioFaults = s.env.ioFaults ∧
    (t.status ≠ 0x00#8 → t.r0 = s.r0 ∧ t.r1 = s.r1) ∧
    (i ∉ [.freqScan, .pqExtractMin, .pqPeek, .pqSize, .pqIsEmpty, .bwClose, .brReadBit, .decStep] → t.r0 = s.r0) ∧
    (i ∉ [.pqExtractMin, .pqPeek, .decStep] → t.r1 = s.r1)

/-- 60_exceptions.md R176, 49_verifier_boundary.md R170: STATUS after a command is Ok or a kind a command can end with, never
SizeMismatch or ContentMismatch; with the default oracle (R188) it is never IOError. -/
def Obligations.StatusValues : Prop :=
  ∀ (i : Instr) (s t : State), exec i s = .next t →
    t.status ∈ legalStatus ∧ t.status ≠ 0x0B#8 ∧ t.status ≠ 0x0C#8 ∧ (s.env.ioFaults = [] → t.status ≠ 0x01#8)

/-- 10_state.md R12: SEQ_STEP after a command: 0, except after a composite command that faulted. -/
def Obligations.SeqStepAfter : Prop :=
  ∀ (i : Instr) (s t : State), exec i s = .next t →
    (i ≠ .compress → i ≠ .decompress → t.seqStep = 0#4) ∧
    (i = .compress ∨ i = .decompress → (t.status = 0x00#8 ↔ t.seqStep = 0#4)) ∧
    (i = .compress → t.seqStep ≤ 8#4) ∧ (i = .decompress → t.seqStep ≤ 7#4)

/-- 10_state.md R26: the validity-flag discipline, event by event. -/
def Obligations.FlagDiscipline : Prop :=
  ∀ (i : Instr) (s t : State), exec i s = .next t →
    (i ∈ [.ftClear, .ftSet, .freqScan, .cfReadHeader] →
      t.tree.valid = false ∧ t.codes.valid = false ∧ t.dec.valid = false) ∧
    (i ∈ [.ftClear, .ftSet, .freqScan, .tbBuild] → t.hdr.valid = s.hdr.valid) ∧
    (i = .cfReadHeader → t.hdr.valid = decide (t.status = 0x00#8)) ∧
    (i = .tbBuild → t.tree.valid = decide (t.status = 0x00#8) ∧ t.codes.valid = false ∧ t.dec.valid = false) ∧
    (i = .cgGenerate → t.tree.valid = s.tree.valid ∧ t.dec.valid = s.dec.valid ∧ t.hdr.valid = s.hdr.valid ∧
      (s.tree.valid = true → t.codes.valid = decide (t.status = 0x00#8))) ∧
    (i = .decInit → t.tree.valid = s.tree.valid ∧ t.codes.valid = s.codes.valid ∧ t.hdr.valid = s.hdr.valid ∧
      (t.status = 0x00#8 → t.dec.valid = true)) ∧
    (i ∉ [.ftClear, .ftSet, .freqScan, .cfReadHeader, .tbBuild, .cgGenerate, .decInit, .compress, .decompress] →
      t.tree.valid = s.tree.valid ∧ t.codes.valid = s.codes.valid ∧ t.dec.valid = s.dec.valid ∧
      t.hdr.valid = s.hdr.valid)

/-- 60_exceptions.md R188, 43_code_generator.md R108: in every state that meets the invariant no command ends with
InternalCheckFailed. -/
def Obligations.InternalCheckNeverFails : Prop :=
  ∀ (i : Instr) (s t : State), Inv s → exec i s = .next t → t.status ≠ 0x84#8
end

