-- ==== Sys2Proof/Laws/State.lean ====
section
/-! SUPPORT. One lemma per field per update of the state, true by rfl, so that no proof unfolds a record update. -/
namespace Sys2Proof.Machine

/-! ### setSeqStep -/

@[simp] theorem State.setSeqStep_a (s : State) (x : BitVec 4) : (s.setSeqStep x).a = s.a := rfl
@[simp] theorem State.setSeqStep_b (s : State) (x : BitVec 4) : (s.setSeqStep x).b = s.b := rfl
@[simp] theorem State.setSeqStep_r0 (s : State) (x : BitVec 4) : (s.setSeqStep x).r0 = s.r0 := rfl
@[simp] theorem State.setSeqStep_r1 (s : State) (x : BitVec 4) : (s.setSeqStep x).r1 = s.r1 := rfl
@[simp] theorem State.setSeqStep_cmd (s : State) (x : BitVec 4) : (s.setSeqStep x).cmd = s.cmd := rfl
@[simp] theorem State.setSeqStep_status (s : State) (x : BitVec 4) : (s.setSeqStep x).status = s.status := rfl
@[simp] theorem State.setSeqStep_seqStep (s : State) (x : BitVec 4) : (s.setSeqStep x).seqStep = x := rfl
@[simp] theorem State.setSeqStep_ft (s : State) (x : BitVec 4) : (s.setSeqStep x).ft = s.ft := rfl
@[simp] theorem State.setSeqStep_queue (s : State) (x : BitVec 4) : (s.setSeqStep x).queue = s.queue := rfl
@[simp] theorem State.setSeqStep_tree (s : State) (x : BitVec 4) : (s.setSeqStep x).tree = s.tree := rfl
@[simp] theorem State.setSeqStep_codes (s : State) (x : BitVec 4) : (s.setSeqStep x).codes = s.codes := rfl
@[simp] theorem State.setSeqStep_bw (s : State) (x : BitVec 4) : (s.setSeqStep x).bw = s.bw := rfl
@[simp] theorem State.setSeqStep_br (s : State) (x : BitVec 4) : (s.setSeqStep x).br = s.br := rfl
@[simp] theorem State.setSeqStep_hdr (s : State) (x : BitVec 4) : (s.setSeqStep x).hdr = s.hdr := rfl
@[simp] theorem State.setSeqStep_dec (s : State) (x : BitVec 4) : (s.setSeqStep x).dec = s.dec := rfl
@[simp] theorem State.setSeqStep_src (s : State) (x : BitVec 4) : (s.setSeqStep x).src = s.src := rfl
@[simp] theorem State.setSeqStep_sink (s : State) (x : BitVec 4) : (s.setSeqStep x).sink = s.sink := rfl
@[simp] theorem State.setSeqStep_env (s : State) (x : BitVec 4) : (s.setSeqStep x).env = s.env := rfl
@[simp] theorem State.setSeqStep_host (s : State) (x : BitVec 4) : (s.setSeqStep x).host = s.host := rfl
@[simp] theorem State.setSeqStep_setSeqStep (s : State) (x y : BitVec 4) : (s.setSeqStep x).setSeqStep y = s.setSeqStep y := rfl

/-! ### setStatus -/

@[simp] theorem State.setStatus_a (s : State) (x : Byte) : (s.setStatus x).a = s.a := rfl
@[simp] theorem State.setStatus_b (s : State) (x : Byte) : (s.setStatus x).b = s.b := rfl
@[simp] theorem State.setStatus_r0 (s : State) (x : Byte) : (s.setStatus x).r0 = s.r0 := rfl
@[simp] theorem State.setStatus_r1 (s : State) (x : Byte) : (s.setStatus x).r1 = s.r1 := rfl
@[simp] theorem State.setStatus_cmd (s : State) (x : Byte) : (s.setStatus x).cmd = s.cmd := rfl
@[simp] theorem State.setStatus_status (s : State) (x : Byte) : (s.setStatus x).status = x := rfl
@[simp] theorem State.setStatus_seqStep (s : State) (x : Byte) : (s.setStatus x).seqStep = s.seqStep := rfl
@[simp] theorem State.setStatus_ft (s : State) (x : Byte) : (s.setStatus x).ft = s.ft := rfl
@[simp] theorem State.setStatus_queue (s : State) (x : Byte) : (s.setStatus x).queue = s.queue := rfl
@[simp] theorem State.setStatus_tree (s : State) (x : Byte) : (s.setStatus x).tree = s.tree := rfl
@[simp] theorem State.setStatus_codes (s : State) (x : Byte) : (s.setStatus x).codes = s.codes := rfl
@[simp] theorem State.setStatus_bw (s : State) (x : Byte) : (s.setStatus x).bw = s.bw := rfl
@[simp] theorem State.setStatus_br (s : State) (x : Byte) : (s.setStatus x).br = s.br := rfl
@[simp] theorem State.setStatus_hdr (s : State) (x : Byte) : (s.setStatus x).hdr = s.hdr := rfl
@[simp] theorem State.setStatus_dec (s : State) (x : Byte) : (s.setStatus x).dec = s.dec := rfl
@[simp] theorem State.setStatus_src (s : State) (x : Byte) : (s.setStatus x).src = s.src := rfl
@[simp] theorem State.setStatus_sink (s : State) (x : Byte) : (s.setStatus x).sink = s.sink := rfl
@[simp] theorem State.setStatus_env (s : State) (x : Byte) : (s.setStatus x).env = s.env := rfl
@[simp] theorem State.setStatus_host (s : State) (x : Byte) : (s.setStatus x).host = s.host := rfl
@[simp] theorem State.setStatus_setStatus (s : State) (x y : Byte) : (s.setStatus x).setStatus y = s.setStatus y := rfl

/-! ### setR0 -/

@[simp] theorem State.setR0_a (s : State) (x : Word) : (s.setR0 x).a = s.a := rfl
@[simp] theorem State.setR0_b (s : State) (x : Word) : (s.setR0 x).b = s.b := rfl
@[simp] theorem State.setR0_r0 (s : State) (x : Word) : (s.setR0 x).r0 = x := rfl
@[simp] theorem State.setR0_r1 (s : State) (x : Word) : (s.setR0 x).r1 = s.r1 := rfl
@[simp] theorem State.setR0_cmd (s : State) (x : Word) : (s.setR0 x).cmd = s.cmd := rfl
@[simp] theorem State.setR0_status (s : State) (x : Word) : (s.setR0 x).status = s.status := rfl
@[simp] theorem State.setR0_seqStep (s : State) (x : Word) : (s.setR0 x).seqStep = s.seqStep := rfl
@[simp] theorem State.setR0_ft (s : State) (x : Word) : (s.setR0 x).ft = s.ft := rfl
@[simp] theorem State.setR0_queue (s : State) (x : Word) : (s.setR0 x).queue = s.queue := rfl
@[simp] theorem State.setR0_tree (s : State) (x : Word) : (s.setR0 x).tree = s.tree := rfl
@[simp] theorem State.setR0_codes (s : State) (x : Word) : (s.setR0 x).codes = s.codes := rfl
@[simp] theorem State.setR0_bw (s : State) (x : Word) : (s.setR0 x).bw = s.bw := rfl
@[simp] theorem State.setR0_br (s : State) (x : Word) : (s.setR0 x).br = s.br := rfl
@[simp] theorem State.setR0_hdr (s : State) (x : Word) : (s.setR0 x).hdr = s.hdr := rfl
@[simp] theorem State.setR0_dec (s : State) (x : Word) : (s.setR0 x).dec = s.dec := rfl
@[simp] theorem State.setR0_src (s : State) (x : Word) : (s.setR0 x).src = s.src := rfl
@[simp] theorem State.setR0_sink (s : State) (x : Word) : (s.setR0 x).sink = s.sink := rfl
@[simp] theorem State.setR0_env (s : State) (x : Word) : (s.setR0 x).env = s.env := rfl
@[simp] theorem State.setR0_host (s : State) (x : Word) : (s.setR0 x).host = s.host := rfl
@[simp] theorem State.setR0_setR0 (s : State) (x y : Word) : (s.setR0 x).setR0 y = s.setR0 y := rfl

/-! ### setR1 -/

@[simp] theorem State.setR1_a (s : State) (x : Word) : (s.setR1 x).a = s.a := rfl
@[simp] theorem State.setR1_b (s : State) (x : Word) : (s.setR1 x).b = s.b := rfl
@[simp] theorem State.setR1_r0 (s : State) (x : Word) : (s.setR1 x).r0 = s.r0 := rfl
@[simp] theorem State.setR1_r1 (s : State) (x : Word) : (s.setR1 x).r1 = x := rfl
@[simp] theorem State.setR1_cmd (s : State) (x : Word) : (s.setR1 x).cmd = s.cmd := rfl
@[simp] theorem State.setR1_status (s : State) (x : Word) : (s.setR1 x).status = s.status := rfl
@[simp] theorem State.setR1_seqStep (s : State) (x : Word) : (s.setR1 x).seqStep = s.seqStep := rfl
@[simp] theorem State.setR1_ft (s : State) (x : Word) : (s.setR1 x).ft = s.ft := rfl
@[simp] theorem State.setR1_queue (s : State) (x : Word) : (s.setR1 x).queue = s.queue := rfl
@[simp] theorem State.setR1_tree (s : State) (x : Word) : (s.setR1 x).tree = s.tree := rfl
@[simp] theorem State.setR1_codes (s : State) (x : Word) : (s.setR1 x).codes = s.codes := rfl
@[simp] theorem State.setR1_bw (s : State) (x : Word) : (s.setR1 x).bw = s.bw := rfl
@[simp] theorem State.setR1_br (s : State) (x : Word) : (s.setR1 x).br = s.br := rfl
@[simp] theorem State.setR1_hdr (s : State) (x : Word) : (s.setR1 x).hdr = s.hdr := rfl
@[simp] theorem State.setR1_dec (s : State) (x : Word) : (s.setR1 x).dec = s.dec := rfl
@[simp] theorem State.setR1_src (s : State) (x : Word) : (s.setR1 x).src = s.src := rfl
@[simp] theorem State.setR1_sink (s : State) (x : Word) : (s.setR1 x).sink = s.sink := rfl
@[simp] theorem State.setR1_env (s : State) (x : Word) : (s.setR1 x).env = s.env := rfl
@[simp] theorem State.setR1_host (s : State) (x : Word) : (s.setR1 x).host = s.host := rfl
@[simp] theorem State.setR1_setR1 (s : State) (x y : Word) : (s.setR1 x).setR1 y = s.setR1 y := rfl

/-! ### setFt -/

@[simp] theorem State.setFt_a (s : State) (x : Vector FtEntry 256) : (s.setFt x).a = s.a := rfl
@[simp] theorem State.setFt_b (s : State) (x : Vector FtEntry 256) : (s.setFt x).b = s.b := rfl
@[simp] theorem State.setFt_r0 (s : State) (x : Vector FtEntry 256) : (s.setFt x).r0 = s.r0 := rfl
@[simp] theorem State.setFt_r1 (s : State) (x : Vector FtEntry 256) : (s.setFt x).r1 = s.r1 := rfl
@[simp] theorem State.setFt_cmd (s : State) (x : Vector FtEntry 256) : (s.setFt x).cmd = s.cmd := rfl
@[simp] theorem State.setFt_status (s : State) (x : Vector FtEntry 256) : (s.setFt x).status = s.status := rfl
@[simp] theorem State.setFt_seqStep (s : State) (x : Vector FtEntry 256) : (s.setFt x).seqStep = s.seqStep := rfl
@[simp] theorem State.setFt_ft (s : State) (x : Vector FtEntry 256) : (s.setFt x).ft = x := rfl
@[simp] theorem State.setFt_queue (s : State) (x : Vector FtEntry 256) : (s.setFt x).queue = s.queue := rfl
@[simp] theorem State.setFt_tree (s : State) (x : Vector FtEntry 256) : (s.setFt x).tree = s.tree := rfl
@[simp] theorem State.setFt_codes (s : State) (x : Vector FtEntry 256) : (s.setFt x).codes = s.codes := rfl
@[simp] theorem State.setFt_bw (s : State) (x : Vector FtEntry 256) : (s.setFt x).bw = s.bw := rfl
@[simp] theorem State.setFt_br (s : State) (x : Vector FtEntry 256) : (s.setFt x).br = s.br := rfl
@[simp] theorem State.setFt_hdr (s : State) (x : Vector FtEntry 256) : (s.setFt x).hdr = s.hdr := rfl
@[simp] theorem State.setFt_dec (s : State) (x : Vector FtEntry 256) : (s.setFt x).dec = s.dec := rfl
@[simp] theorem State.setFt_src (s : State) (x : Vector FtEntry 256) : (s.setFt x).src = s.src := rfl
@[simp] theorem State.setFt_sink (s : State) (x : Vector FtEntry 256) : (s.setFt x).sink = s.sink := rfl
@[simp] theorem State.setFt_env (s : State) (x : Vector FtEntry 256) : (s.setFt x).env = s.env := rfl
@[simp] theorem State.setFt_host (s : State) (x : Vector FtEntry 256) : (s.setFt x).host = s.host := rfl
@[simp] theorem State.setFt_setFt (s : State) (x y : Vector FtEntry 256) : (s.setFt x).setFt y = s.setFt y := rfl

/-! ### setQueue -/

@[simp] theorem State.setQueue_a (s : State) (x : Queue) : (s.setQueue x).a = s.a := rfl
@[simp] theorem State.setQueue_b (s : State) (x : Queue) : (s.setQueue x).b = s.b := rfl
@[simp] theorem State.setQueue_r0 (s : State) (x : Queue) : (s.setQueue x).r0 = s.r0 := rfl
@[simp] theorem State.setQueue_r1 (s : State) (x : Queue) : (s.setQueue x).r1 = s.r1 := rfl
@[simp] theorem State.setQueue_cmd (s : State) (x : Queue) : (s.setQueue x).cmd = s.cmd := rfl
@[simp] theorem State.setQueue_status (s : State) (x : Queue) : (s.setQueue x).status = s.status := rfl
@[simp] theorem State.setQueue_seqStep (s : State) (x : Queue) : (s.setQueue x).seqStep = s.seqStep := rfl
@[simp] theorem State.setQueue_ft (s : State) (x : Queue) : (s.setQueue x).ft = s.ft := rfl
@[simp] theorem State.setQueue_queue (s : State) (x : Queue) : (s.setQueue x).queue = x := rfl
@[simp] theorem State.setQueue_tree (s : State) (x : Queue) : (s.setQueue x).tree = s.tree := rfl
@[simp] theorem State.setQueue_codes (s : State) (x : Queue) : (s.setQueue x).codes = s.codes := rfl
@[simp] theorem State.setQueue_bw (s : State) (x : Queue) : (s.setQueue x).bw = s.bw := rfl
@[simp] theorem State.setQueue_br (s : State) (x : Queue) : (s.setQueue x).br = s.br := rfl
@[simp] theorem State.setQueue_hdr (s : State) (x : Queue) : (s.setQueue x).hdr = s.hdr := rfl
@[simp] theorem State.setQueue_dec (s : State) (x : Queue) : (s.setQueue x).dec = s.dec := rfl
@[simp] theorem State.setQueue_src (s : State) (x : Queue) : (s.setQueue x).src = s.src := rfl
@[simp] theorem State.setQueue_sink (s : State) (x : Queue) : (s.setQueue x).sink = s.sink := rfl
@[simp] theorem State.setQueue_env (s : State) (x : Queue) : (s.setQueue x).env = s.env := rfl
@[simp] theorem State.setQueue_host (s : State) (x : Queue) : (s.setQueue x).host = s.host := rfl
@[simp] theorem State.setQueue_setQueue (s : State) (x y : Queue) : (s.setQueue x).setQueue y = s.setQueue y := rfl

/-! ### setTree -/

@[simp] theorem State.setTree_a (s : State) (x : Tree) : (s.setTree x).a = s.a := rfl
@[simp] theorem State.setTree_b (s : State) (x : Tree) : (s.setTree x).b = s.b := rfl
@[simp] theorem State.setTree_r0 (s : State) (x : Tree) : (s.setTree x).r0 = s.r0 := rfl
@[simp] theorem State.setTree_r1 (s : State) (x : Tree) : (s.setTree x).r1 = s.r1 := rfl
@[simp] theorem State.setTree_cmd (s : State) (x : Tree) : (s.setTree x).cmd = s.cmd := rfl
@[simp] theorem State.setTree_status (s : State) (x : Tree) : (s.setTree x).status = s.status := rfl
@[simp] theorem State.setTree_seqStep (s : State) (x : Tree) : (s.setTree x).seqStep = s.seqStep := rfl
@[simp] theorem State.setTree_ft (s : State) (x : Tree) : (s.setTree x).ft = s.ft := rfl
@[simp] theorem State.setTree_queue (s : State) (x : Tree) : (s.setTree x).queue = s.queue := rfl
@[simp] theorem State.setTree_tree (s : State) (x : Tree) : (s.setTree x).tree = x := rfl
@[simp] theorem State.setTree_codes (s : State) (x : Tree) : (s.setTree x).codes = s.codes := rfl
@[simp] theorem State.setTree_bw (s : State) (x : Tree) : (s.setTree x).bw = s.bw := rfl
@[simp] theorem State.setTree_br (s : State) (x : Tree) : (s.setTree x).br = s.br := rfl
@[simp] theorem State.setTree_hdr (s : State) (x : Tree) : (s.setTree x).hdr = s.hdr := rfl
@[simp] theorem State.setTree_dec (s : State) (x : Tree) : (s.setTree x).dec = s.dec := rfl
@[simp] theorem State.setTree_src (s : State) (x : Tree) : (s.setTree x).src = s.src := rfl
@[simp] theorem State.setTree_sink (s : State) (x : Tree) : (s.setTree x).sink = s.sink := rfl
@[simp] theorem State.setTree_env (s : State) (x : Tree) : (s.setTree x).env = s.env := rfl
@[simp] theorem State.setTree_host (s : State) (x : Tree) : (s.setTree x).host = s.host := rfl
@[simp] theorem State.setTree_setTree (s : State) (x y : Tree) : (s.setTree x).setTree y = s.setTree y := rfl

/-! ### setCodes -/

@[simp] theorem State.setCodes_a (s : State) (x : Codes) : (s.setCodes x).a = s.a := rfl
@[simp] theorem State.setCodes_b (s : State) (x : Codes) : (s.setCodes x).b = s.b := rfl
@[simp] theorem State.setCodes_r0 (s : State) (x : Codes) : (s.setCodes x).r0 = s.r0 := rfl
@[simp] theorem State.setCodes_r1 (s : State) (x : Codes) : (s.setCodes x).r1 = s.r1 := rfl
@[simp] theorem State.setCodes_cmd (s : State) (x : Codes) : (s.setCodes x).cmd = s.cmd := rfl
@[simp] theorem State.setCodes_status (s : State) (x : Codes) : (s.setCodes x).status = s.status := rfl
@[simp] theorem State.setCodes_seqStep (s : State) (x : Codes) : (s.setCodes x).seqStep = s.seqStep := rfl
@[simp] theorem State.setCodes_ft (s : State) (x : Codes) : (s.setCodes x).ft = s.ft := rfl
@[simp] theorem State.setCodes_queue (s : State) (x : Codes) : (s.setCodes x).queue = s.queue := rfl
@[simp] theorem State.setCodes_tree (s : State) (x : Codes) : (s.setCodes x).tree = s.tree := rfl
@[simp] theorem State.setCodes_codes (s : State) (x : Codes) : (s.setCodes x).codes = x := rfl
@[simp] theorem State.setCodes_bw (s : State) (x : Codes) : (s.setCodes x).bw = s.bw := rfl
@[simp] theorem State.setCodes_br (s : State) (x : Codes) : (s.setCodes x).br = s.br := rfl
@[simp] theorem State.setCodes_hdr (s : State) (x : Codes) : (s.setCodes x).hdr = s.hdr := rfl
@[simp] theorem State.setCodes_dec (s : State) (x : Codes) : (s.setCodes x).dec = s.dec := rfl
@[simp] theorem State.setCodes_src (s : State) (x : Codes) : (s.setCodes x).src = s.src := rfl
@[simp] theorem State.setCodes_sink (s : State) (x : Codes) : (s.setCodes x).sink = s.sink := rfl
@[simp] theorem State.setCodes_env (s : State) (x : Codes) : (s.setCodes x).env = s.env := rfl
@[simp] theorem State.setCodes_host (s : State) (x : Codes) : (s.setCodes x).host = s.host := rfl
@[simp] theorem State.setCodes_setCodes (s : State) (x y : Codes) : (s.setCodes x).setCodes y = s.setCodes y := rfl

/-! ### setBw -/

@[simp] theorem State.setBw_a (s : State) (x : BitWriter) : (s.setBw x).a = s.a := rfl
@[simp] theorem State.setBw_b (s : State) (x : BitWriter) : (s.setBw x).b = s.b := rfl
@[simp] theorem State.setBw_r0 (s : State) (x : BitWriter) : (s.setBw x).r0 = s.r0 := rfl
@[simp] theorem State.setBw_r1 (s : State) (x : BitWriter) : (s.setBw x).r1 = s.r1 := rfl
@[simp] theorem State.setBw_cmd (s : State) (x : BitWriter) : (s.setBw x).cmd = s.cmd := rfl
@[simp] theorem State.setBw_status (s : State) (x : BitWriter) : (s.setBw x).status = s.status := rfl
@[simp] theorem State.setBw_seqStep (s : State) (x : BitWriter) : (s.setBw x).seqStep = s.seqStep := rfl
@[simp] theorem State.setBw_ft (s : State) (x : BitWriter) : (s.setBw x).ft = s.ft := rfl
@[simp] theorem State.setBw_queue (s : State) (x : BitWriter) : (s.setBw x).queue = s.queue := rfl
@[simp] theorem State.setBw_tree (s : State) (x : BitWriter) : (s.setBw x).tree = s.tree := rfl
@[simp] theorem State.setBw_codes (s : State) (x : BitWriter) : (s.setBw x).codes = s.codes := rfl
@[simp] theorem State.setBw_bw (s : State) (x : BitWriter) : (s.setBw x).bw = x := rfl
@[simp] theorem State.setBw_br (s : State) (x : BitWriter) : (s.setBw x).br = s.br := rfl
@[simp] theorem State.setBw_hdr (s : State) (x : BitWriter) : (s.setBw x).hdr = s.hdr := rfl
@[simp] theorem State.setBw_dec (s : State) (x : BitWriter) : (s.setBw x).dec = s.dec := rfl
@[simp] theorem State.setBw_src (s : State) (x : BitWriter) : (s.setBw x).src = s.src := rfl
@[simp] theorem State.setBw_sink (s : State) (x : BitWriter) : (s.setBw x).sink = s.sink := rfl
@[simp] theorem State.setBw_env (s : State) (x : BitWriter) : (s.setBw x).env = s.env := rfl
@[simp] theorem State.setBw_host (s : State) (x : BitWriter) : (s.setBw x).host = s.host := rfl
@[simp] theorem State.setBw_setBw (s : State) (x y : BitWriter) : (s.setBw x).setBw y = s.setBw y := rfl

/-! ### setBr -/

@[simp] theorem State.setBr_a (s : State) (x : BitReader) : (s.setBr x).a = s.a := rfl
@[simp] theorem State.setBr_b (s : State) (x : BitReader) : (s.setBr x).b = s.b := rfl
@[simp] theorem State.setBr_r0 (s : State) (x : BitReader) : (s.setBr x).r0 = s.r0 := rfl
@[simp] theorem State.setBr_r1 (s : State) (x : BitReader) : (s.setBr x).r1 = s.r1 := rfl
@[simp] theorem State.setBr_cmd (s : State) (x : BitReader) : (s.setBr x).cmd = s.cmd := rfl
@[simp] theorem State.setBr_status (s : State) (x : BitReader) : (s.setBr x).status = s.status := rfl
@[simp] theorem State.setBr_seqStep (s : State) (x : BitReader) : (s.setBr x).seqStep = s.seqStep := rfl
@[simp] theorem State.setBr_ft (s : State) (x : BitReader) : (s.setBr x).ft = s.ft := rfl
@[simp] theorem State.setBr_queue (s : State) (x : BitReader) : (s.setBr x).queue = s.queue := rfl
@[simp] theorem State.setBr_tree (s : State) (x : BitReader) : (s.setBr x).tree = s.tree := rfl
@[simp] theorem State.setBr_codes (s : State) (x : BitReader) : (s.setBr x).codes = s.codes := rfl
@[simp] theorem State.setBr_bw (s : State) (x : BitReader) : (s.setBr x).bw = s.bw := rfl
@[simp] theorem State.setBr_br (s : State) (x : BitReader) : (s.setBr x).br = x := rfl
@[simp] theorem State.setBr_hdr (s : State) (x : BitReader) : (s.setBr x).hdr = s.hdr := rfl
@[simp] theorem State.setBr_dec (s : State) (x : BitReader) : (s.setBr x).dec = s.dec := rfl
@[simp] theorem State.setBr_src (s : State) (x : BitReader) : (s.setBr x).src = s.src := rfl
@[simp] theorem State.setBr_sink (s : State) (x : BitReader) : (s.setBr x).sink = s.sink := rfl
@[simp] theorem State.setBr_env (s : State) (x : BitReader) : (s.setBr x).env = s.env := rfl
@[simp] theorem State.setBr_host (s : State) (x : BitReader) : (s.setBr x).host = s.host := rfl
@[simp] theorem State.setBr_setBr (s : State) (x y : BitReader) : (s.setBr x).setBr y = s.setBr y := rfl

/-! ### setHdr -/

@[simp] theorem State.setHdr_a (s : State) (x : Header) : (s.setHdr x).a = s.a := rfl
@[simp] theorem State.setHdr_b (s : State) (x : Header) : (s.setHdr x).b = s.b := rfl
@[simp] theorem State.setHdr_r0 (s : State) (x : Header) : (s.setHdr x).r0 = s.r0 := rfl
@[simp] theorem State.setHdr_r1 (s : State) (x : Header) : (s.setHdr x).r1 = s.r1 := rfl
@[simp] theorem State.setHdr_cmd (s : State) (x : Header) : (s.setHdr x).cmd = s.cmd := rfl
@[simp] theorem State.setHdr_status (s : State) (x : Header) : (s.setHdr x).status = s.status := rfl
@[simp] theorem State.setHdr_seqStep (s : State) (x : Header) : (s.setHdr x).seqStep = s.seqStep := rfl
@[simp] theorem State.setHdr_ft (s : State) (x : Header) : (s.setHdr x).ft = s.ft := rfl
@[simp] theorem State.setHdr_queue (s : State) (x : Header) : (s.setHdr x).queue = s.queue := rfl
@[simp] theorem State.setHdr_tree (s : State) (x : Header) : (s.setHdr x).tree = s.tree := rfl
@[simp] theorem State.setHdr_codes (s : State) (x : Header) : (s.setHdr x).codes = s.codes := rfl
@[simp] theorem State.setHdr_bw (s : State) (x : Header) : (s.setHdr x).bw = s.bw := rfl
@[simp] theorem State.setHdr_br (s : State) (x : Header) : (s.setHdr x).br = s.br := rfl
@[simp] theorem State.setHdr_hdr (s : State) (x : Header) : (s.setHdr x).hdr = x := rfl
@[simp] theorem State.setHdr_dec (s : State) (x : Header) : (s.setHdr x).dec = s.dec := rfl
@[simp] theorem State.setHdr_src (s : State) (x : Header) : (s.setHdr x).src = s.src := rfl
@[simp] theorem State.setHdr_sink (s : State) (x : Header) : (s.setHdr x).sink = s.sink := rfl
@[simp] theorem State.setHdr_env (s : State) (x : Header) : (s.setHdr x).env = s.env := rfl
@[simp] theorem State.setHdr_host (s : State) (x : Header) : (s.setHdr x).host = s.host := rfl
@[simp] theorem State.setHdr_setHdr (s : State) (x y : Header) : (s.setHdr x).setHdr y = s.setHdr y := rfl

/-! ### setDec -/

@[simp] theorem State.setDec_a (s : State) (x : Decoder) : (s.setDec x).a = s.a := rfl
@[simp] theorem State.setDec_b (s : State) (x : Decoder) : (s.setDec x).b = s.b := rfl
@[simp] theorem State.setDec_r0 (s : State) (x : Decoder) : (s.setDec x).r0 = s.r0 := rfl
@[simp] theorem State.setDec_r1 (s : State) (x : Decoder) : (s.setDec x).r1 = s.r1 := rfl
@[simp] theorem State.setDec_cmd (s : State) (x : Decoder) : (s.setDec x).cmd = s.cmd := rfl
@[simp] theorem State.setDec_status (s : State) (x : Decoder) : (s.setDec x).status = s.status := rfl
@[simp] theorem State.setDec_seqStep (s : State) (x : Decoder) : (s.setDec x).seqStep = s.seqStep := rfl
@[simp] theorem State.setDec_ft (s : State) (x : Decoder) : (s.setDec x).ft = s.ft := rfl
@[simp] theorem State.setDec_queue (s : State) (x : Decoder) : (s.setDec x).queue = s.queue := rfl
@[simp] theorem State.setDec_tree (s : State) (x : Decoder) : (s.setDec x).tree = s.tree := rfl
@[simp] theorem State.setDec_codes (s : State) (x : Decoder) : (s.setDec x).codes = s.codes := rfl
@[simp] theorem State.setDec_bw (s : State) (x : Decoder) : (s.setDec x).bw = s.bw := rfl
@[simp] theorem State.setDec_br (s : State) (x : Decoder) : (s.setDec x).br = s.br := rfl
@[simp] theorem State.setDec_hdr (s : State) (x : Decoder) : (s.setDec x).hdr = s.hdr := rfl
@[simp] theorem State.setDec_dec (s : State) (x : Decoder) : (s.setDec x).dec = x := rfl
@[simp] theorem State.setDec_src (s : State) (x : Decoder) : (s.setDec x).src = s.src := rfl
@[simp] theorem State.setDec_sink (s : State) (x : Decoder) : (s.setDec x).sink = s.sink := rfl
@[simp] theorem State.setDec_env (s : State) (x : Decoder) : (s.setDec x).env = s.env := rfl
@[simp] theorem State.setDec_host (s : State) (x : Decoder) : (s.setDec x).host = s.host := rfl
@[simp] theorem State.setDec_setDec (s : State) (x y : Decoder) : (s.setDec x).setDec y = s.setDec y := rfl

/-! ### setSrc -/

@[simp] theorem State.setSrc_a (s : State) (x : Stream) : (s.setSrc x).a = s.a := rfl
@[simp] theorem State.setSrc_b (s : State) (x : Stream) : (s.setSrc x).b = s.b := rfl
@[simp] theorem State.setSrc_r0 (s : State) (x : Stream) : (s.setSrc x).r0 = s.r0 := rfl
@[simp] theorem State.setSrc_r1 (s : State) (x : Stream) : (s.setSrc x).r1 = s.r1 := rfl
@[simp] theorem State.setSrc_cmd (s : State) (x : Stream) : (s.setSrc x).cmd = s.cmd := rfl
@[simp] theorem State.setSrc_status (s : State) (x : Stream) : (s.setSrc x).status = s.status := rfl
@[simp] theorem State.setSrc_seqStep (s : State) (x : Stream) : (s.setSrc x).seqStep = s.seqStep := rfl
@[simp] theorem State.setSrc_ft (s : State) (x : Stream) : (s.setSrc x).ft = s.ft := rfl
@[simp] theorem State.setSrc_queue (s : State) (x : Stream) : (s.setSrc x).queue = s.queue := rfl
@[simp] theorem State.setSrc_tree (s : State) (x : Stream) : (s.setSrc x).tree = s.tree := rfl
@[simp] theorem State.setSrc_codes (s : State) (x : Stream) : (s.setSrc x).codes = s.codes := rfl
@[simp] theorem State.setSrc_bw (s : State) (x : Stream) : (s.setSrc x).bw = s.bw := rfl
@[simp] theorem State.setSrc_br (s : State) (x : Stream) : (s.setSrc x).br = s.br := rfl
@[simp] theorem State.setSrc_hdr (s : State) (x : Stream) : (s.setSrc x).hdr = s.hdr := rfl
@[simp] theorem State.setSrc_dec (s : State) (x : Stream) : (s.setSrc x).dec = s.dec := rfl
@[simp] theorem State.setSrc_src (s : State) (x : Stream) : (s.setSrc x).src = x := rfl
@[simp] theorem State.setSrc_sink (s : State) (x : Stream) : (s.setSrc x).sink = s.sink := rfl
@[simp] theorem State.setSrc_env (s : State) (x : Stream) : (s.setSrc x).env = s.env := rfl
@[simp] theorem State.setSrc_host (s : State) (x : Stream) : (s.setSrc x).host = s.host := rfl
@[simp] theorem State.setSrc_setSrc (s : State) (x y : Stream) : (s.setSrc x).setSrc y = s.setSrc y := rfl

/-! ### setSink -/

@[simp] theorem State.setSink_a (s : State) (x : Stream) : (s.setSink x).a = s.a := rfl
@[simp] theorem State.setSink_b (s : State) (x : Stream) : (s.setSink x).b = s.b := rfl
@[simp] theorem State.setSink_r0 (s : State) (x : Stream) : (s.setSink x).r0 = s.r0 := rfl
@[simp] theorem State.setSink_r1 (s : State) (x : Stream) : (s.setSink x).r1 = s.r1 := rfl
@[simp] theorem State.setSink_cmd (s : State) (x : Stream) : (s.setSink x).cmd = s.cmd := rfl
@[simp] theorem State.setSink_status (s : State) (x : Stream) : (s.setSink x).status = s.status := rfl
@[simp] theorem State.setSink_seqStep (s : State) (x : Stream) : (s.setSink x).seqStep = s.seqStep := rfl
@[simp] theorem State.setSink_ft (s : State) (x : Stream) : (s.setSink x).ft = s.ft := rfl
@[simp] theorem State.setSink_queue (s : State) (x : Stream) : (s.setSink x).queue = s.queue := rfl
@[simp] theorem State.setSink_tree (s : State) (x : Stream) : (s.setSink x).tree = s.tree := rfl
@[simp] theorem State.setSink_codes (s : State) (x : Stream) : (s.setSink x).codes = s.codes := rfl
@[simp] theorem State.setSink_bw (s : State) (x : Stream) : (s.setSink x).bw = s.bw := rfl
@[simp] theorem State.setSink_br (s : State) (x : Stream) : (s.setSink x).br = s.br := rfl
@[simp] theorem State.setSink_hdr (s : State) (x : Stream) : (s.setSink x).hdr = s.hdr := rfl
@[simp] theorem State.setSink_dec (s : State) (x : Stream) : (s.setSink x).dec = s.dec := rfl
@[simp] theorem State.setSink_src (s : State) (x : Stream) : (s.setSink x).src = s.src := rfl
@[simp] theorem State.setSink_sink (s : State) (x : Stream) : (s.setSink x).sink = x := rfl
@[simp] theorem State.setSink_env (s : State) (x : Stream) : (s.setSink x).env = s.env := rfl
@[simp] theorem State.setSink_host (s : State) (x : Stream) : (s.setSink x).host = s.host := rfl
@[simp] theorem State.setSink_setSink (s : State) (x y : Stream) : (s.setSink x).setSink y = s.setSink y := rfl

/-! ### setEnv -/

@[simp] theorem State.setEnv_a (s : State) (x : Env) : (s.setEnv x).a = s.a := rfl
@[simp] theorem State.setEnv_b (s : State) (x : Env) : (s.setEnv x).b = s.b := rfl
@[simp] theorem State.setEnv_r0 (s : State) (x : Env) : (s.setEnv x).r0 = s.r0 := rfl
@[simp] theorem State.setEnv_r1 (s : State) (x : Env) : (s.setEnv x).r1 = s.r1 := rfl
@[simp] theorem State.setEnv_cmd (s : State) (x : Env) : (s.setEnv x).cmd = s.cmd := rfl
@[simp] theorem State.setEnv_status (s : State) (x : Env) : (s.setEnv x).status = s.status := rfl
@[simp] theorem State.setEnv_seqStep (s : State) (x : Env) : (s.setEnv x).seqStep = s.seqStep := rfl
@[simp] theorem State.setEnv_ft (s : State) (x : Env) : (s.setEnv x).ft = s.ft := rfl
@[simp] theorem State.setEnv_queue (s : State) (x : Env) : (s.setEnv x).queue = s.queue := rfl
@[simp] theorem State.setEnv_tree (s : State) (x : Env) : (s.setEnv x).tree = s.tree := rfl
@[simp] theorem State.setEnv_codes (s : State) (x : Env) : (s.setEnv x).codes = s.codes := rfl
@[simp] theorem State.setEnv_bw (s : State) (x : Env) : (s.setEnv x).bw = s.bw := rfl
@[simp] theorem State.setEnv_br (s : State) (x : Env) : (s.setEnv x).br = s.br := rfl
@[simp] theorem State.setEnv_hdr (s : State) (x : Env) : (s.setEnv x).hdr = s.hdr := rfl
@[simp] theorem State.setEnv_dec (s : State) (x : Env) : (s.setEnv x).dec = s.dec := rfl
@[simp] theorem State.setEnv_src (s : State) (x : Env) : (s.setEnv x).src = s.src := rfl
@[simp] theorem State.setEnv_sink (s : State) (x : Env) : (s.setEnv x).sink = s.sink := rfl
@[simp] theorem State.setEnv_env (s : State) (x : Env) : (s.setEnv x).env = x := rfl
@[simp] theorem State.setEnv_host (s : State) (x : Env) : (s.setEnv x).host = s.host := rfl
@[simp] theorem State.setEnv_setEnv (s : State) (x y : Env) : (s.setEnv x).setEnv y = s.setEnv y := rfl

/-! ### dropTree -/

@[simp] theorem State.dropTree_a (s : State) : s.dropTree.a = s.a := rfl
@[simp] theorem State.dropTree_b (s : State) : s.dropTree.b = s.b := rfl
@[simp] theorem State.dropTree_r0 (s : State) : s.dropTree.r0 = s.r0 := rfl
@[simp] theorem State.dropTree_r1 (s : State) : s.dropTree.r1 = s.r1 := rfl
@[simp] theorem State.dropTree_cmd (s : State) : s.dropTree.cmd = s.cmd := rfl
@[simp] theorem State.dropTree_status (s : State) : s.dropTree.status = s.status := rfl
@[simp] theorem State.dropTree_seqStep (s : State) : s.dropTree.seqStep = s.seqStep := rfl
@[simp] theorem State.dropTree_ft (s : State) : s.dropTree.ft = s.ft := rfl
@[simp] theorem State.dropTree_queue (s : State) : s.dropTree.queue = s.queue := rfl
@[simp] theorem State.dropTree_tree (s : State) : s.dropTree.tree = { s.tree with valid := false } := rfl
@[simp] theorem State.dropTree_codes (s : State) : s.dropTree.codes = { s.codes with valid := false } := rfl
@[simp] theorem State.dropTree_bw (s : State) : s.dropTree.bw = s.bw := rfl
@[simp] theorem State.dropTree_br (s : State) : s.dropTree.br = s.br := rfl
@[simp] theorem State.dropTree_hdr (s : State) : s.dropTree.hdr = s.hdr := rfl
@[simp] theorem State.dropTree_dec (s : State) : s.dropTree.dec = { s.dec with valid := false } := rfl
@[simp] theorem State.dropTree_src (s : State) : s.dropTree.src = s.src := rfl
@[simp] theorem State.dropTree_sink (s : State) : s.dropTree.sink = s.sink := rfl
@[simp] theorem State.dropTree_env (s : State) : s.dropTree.env = s.env := rfl
@[simp] theorem State.dropTree_host (s : State) : s.dropTree.host = s.host := rfl

/-! ### setRootValid -/

@[simp] theorem State.setRootValid_a (s : State) (v : Bool) : (s.setRootValid v).a = s.a := rfl
@[simp] theorem State.setRootValid_b (s : State) (v : Bool) : (s.setRootValid v).b = s.b := rfl
@[simp] theorem State.setRootValid_r0 (s : State) (v : Bool) : (s.setRootValid v).r0 = s.r0 := rfl
@[simp] theorem State.setRootValid_r1 (s : State) (v : Bool) : (s.setRootValid v).r1 = s.r1 := rfl
@[simp] theorem State.setRootValid_cmd (s : State) (v : Bool) : (s.setRootValid v).cmd = s.cmd := rfl
@[simp] theorem State.setRootValid_status (s : State) (v : Bool) : (s.setRootValid v).status = s.status := rfl
@[simp] theorem State.setRootValid_seqStep (s : State) (v : Bool) : (s.setRootValid v).seqStep = s.seqStep := rfl
@[simp] theorem State.setRootValid_ft (s : State) (v : Bool) : (s.setRootValid v).ft = s.ft := rfl
@[simp] theorem State.setRootValid_queue (s : State) (v : Bool) : (s.setRootValid v).queue = s.queue := rfl
@[simp] theorem State.setRootValid_tree (s : State) (v : Bool) : (s.setRootValid v).tree = { s.tree with valid := v } := rfl
@[simp] theorem State.setRootValid_codes (s : State) (v : Bool) : (s.setRootValid v).codes = s.codes := rfl
@[simp] theorem State.setRootValid_bw (s : State) (v : Bool) : (s.setRootValid v).bw = s.bw := rfl
@[simp] theorem State.setRootValid_br (s : State) (v : Bool) : (s.setRootValid v).br = s.br := rfl
@[simp] theorem State.setRootValid_hdr (s : State) (v : Bool) : (s.setRootValid v).hdr = s.hdr := rfl
@[simp] theorem State.setRootValid_dec (s : State) (v : Bool) : (s.setRootValid v).dec = s.dec := rfl
@[simp] theorem State.setRootValid_src (s : State) (v : Bool) : (s.setRootValid v).src = s.src := rfl
@[simp] theorem State.setRootValid_sink (s : State) (v : Bool) : (s.setRootValid v).sink = s.sink := rfl
@[simp] theorem State.setRootValid_env (s : State) (v : Bool) : (s.setRootValid v).env = s.env := rfl
@[simp] theorem State.setRootValid_host (s : State) (v : Bool) : (s.setRootValid v).host = s.host := rfl

/-! ### setCtValid -/

@[simp] theorem State.setCtValid_a (s : State) (v : Bool) : (s.setCtValid v).a = s.a := rfl
@[simp] theorem State.setCtValid_b (s : State) (v : Bool) : (s.setCtValid v).b = s.b := rfl
@[simp] theorem State.setCtValid_r0 (s : State) (v : Bool) : (s.setCtValid v).r0 = s.r0 := rfl
@[simp] theorem State.setCtValid_r1 (s : State) (v : Bool) : (s.setCtValid v).r1 = s.r1 := rfl
@[simp] theorem State.setCtValid_cmd (s : State) (v : Bool) : (s.setCtValid v).cmd = s.cmd := rfl
@[simp] theorem State.setCtValid_status (s : State) (v : Bool) : (s.setCtValid v).status = s.status := rfl
@[simp] theorem State.setCtValid_seqStep (s : State) (v : Bool) : (s.setCtValid v).seqStep = s.seqStep := rfl
@[simp] theorem State.setCtValid_ft (s : State) (v : Bool) : (s.setCtValid v).ft = s.ft := rfl
@[simp] theorem State.setCtValid_queue (s : State) (v : Bool) : (s.setCtValid v).queue = s.queue := rfl
@[simp] theorem State.setCtValid_tree (s : State) (v : Bool) : (s.setCtValid v).tree = s.tree := rfl
@[simp] theorem State.setCtValid_codes (s : State) (v : Bool) : (s.setCtValid v).codes = { s.codes with valid := v } := rfl
@[simp] theorem State.setCtValid_bw (s : State) (v : Bool) : (s.setCtValid v).bw = s.bw := rfl
@[simp] theorem State.setCtValid_br (s : State) (v : Bool) : (s.setCtValid v).br = s.br := rfl
@[simp] theorem State.setCtValid_hdr (s : State) (v : Bool) : (s.setCtValid v).hdr = s.hdr := rfl
@[simp] theorem State.setCtValid_dec (s : State) (v : Bool) : (s.setCtValid v).dec = s.dec := rfl
@[simp] theorem State.setCtValid_src (s : State) (v : Bool) : (s.setCtValid v).src = s.src := rfl
@[simp] theorem State.setCtValid_sink (s : State) (v : Bool) : (s.setCtValid v).sink = s.sink := rfl
@[simp] theorem State.setCtValid_env (s : State) (v : Bool) : (s.setCtValid v).env = s.env := rfl
@[simp] theorem State.setCtValid_host (s : State) (v : Bool) : (s.setCtValid v).host = s.host := rfl

/-! ### setHdrValid -/

@[simp] theorem State.setHdrValid_a (s : State) (v : Bool) : (s.setHdrValid v).a = s.a := rfl
@[simp] theorem State.setHdrValid_b (s : State) (v : Bool) : (s.setHdrValid v).b = s.b := rfl
@[simp] theorem State.setHdrValid_r0 (s : State) (v : Bool) : (s.setHdrValid v).r0 = s.r0 := rfl
@[simp] theorem State.setHdrValid_r1 (s : State) (v : Bool) : (s.setHdrValid v).r1 = s.r1 := rfl
@[simp] theorem State.setHdrValid_cmd (s : State) (v : Bool) : (s.setHdrValid v).cmd = s.cmd := rfl
@[simp] theorem State.setHdrValid_status (s : State) (v : Bool) : (s.setHdrValid v).status = s.status := rfl
@[simp] theorem State.setHdrValid_seqStep (s : State) (v : Bool) : (s.setHdrValid v).seqStep = s.seqStep := rfl
@[simp] theorem State.setHdrValid_ft (s : State) (v : Bool) : (s.setHdrValid v).ft = s.ft := rfl
@[simp] theorem State.setHdrValid_queue (s : State) (v : Bool) : (s.setHdrValid v).queue = s.queue := rfl
@[simp] theorem State.setHdrValid_tree (s : State) (v : Bool) : (s.setHdrValid v).tree = s.tree := rfl
@[simp] theorem State.setHdrValid_codes (s : State) (v : Bool) : (s.setHdrValid v).codes = s.codes := rfl
@[simp] theorem State.setHdrValid_bw (s : State) (v : Bool) : (s.setHdrValid v).bw = s.bw := rfl
@[simp] theorem State.setHdrValid_br (s : State) (v : Bool) : (s.setHdrValid v).br = s.br := rfl
@[simp] theorem State.setHdrValid_hdr (s : State) (v : Bool) : (s.setHdrValid v).hdr = { s.hdr with valid := v } := rfl
@[simp] theorem State.setHdrValid_dec (s : State) (v : Bool) : (s.setHdrValid v).dec = s.dec := rfl
@[simp] theorem State.setHdrValid_src (s : State) (v : Bool) : (s.setHdrValid v).src = s.src := rfl
@[simp] theorem State.setHdrValid_sink (s : State) (v : Bool) : (s.setHdrValid v).sink = s.sink := rfl
@[simp] theorem State.setHdrValid_env (s : State) (v : Bool) : (s.setHdrValid v).env = s.env := rfl
@[simp] theorem State.setHdrValid_host (s : State) (v : Bool) : (s.setHdrValid v).host = s.host := rfl

/-! ### setFinished -/

@[simp] theorem State.setFinished_a (s : State) : s.setFinished.a = s.a := rfl
@[simp] theorem State.setFinished_b (s : State) : s.setFinished.b = s.b := rfl
@[simp] theorem State.setFinished_r0 (s : State) : s.setFinished.r0 = s.r0 := rfl
@[simp] theorem State.setFinished_r1 (s : State) : s.setFinished.r1 = s.r1 := rfl
@[simp] theorem State.setFinished_cmd (s : State) : s.setFinished.cmd = s.cmd := rfl
@[simp] theorem State.setFinished_status (s : State) : s.setFinished.status = s.status := rfl
@[simp] theorem State.setFinished_seqStep (s : State) : s.setFinished.seqStep = s.seqStep := rfl
@[simp] theorem State.setFinished_ft (s : State) : s.setFinished.ft = s.ft := rfl
@[simp] theorem State.setFinished_queue (s : State) : s.setFinished.queue = s.queue := rfl
@[simp] theorem State.setFinished_tree (s : State) : s.setFinished.tree = s.tree := rfl
@[simp] theorem State.setFinished_codes (s : State) : s.setFinished.codes = s.codes := rfl
@[simp] theorem State.setFinished_bw (s : State) : s.setFinished.bw = s.bw := rfl
@[simp] theorem State.setFinished_br (s : State) : s.setFinished.br = { s.br with finished := true } := rfl
@[simp] theorem State.setFinished_hdr (s : State) : s.setFinished.hdr = s.hdr := rfl
@[simp] theorem State.setFinished_dec (s : State) : s.setFinished.dec = s.dec := rfl
@[simp] theorem State.setFinished_src (s : State) : s.setFinished.src = s.src := rfl
@[simp] theorem State.setFinished_sink (s : State) : s.setFinished.sink = s.sink := rfl
@[simp] theorem State.setFinished_env (s : State) : s.setFinished.env = s.env := rfl
@[simp] theorem State.setFinished_host (s : State) : s.setFinished.host = s.host := rfl

/-! ### takeFault -/

@[simp] theorem takeFault_a (e : ErrKind) (s : State) : (takeFault e s).a = s.a := rfl
@[simp] theorem takeFault_b (e : ErrKind) (s : State) : (takeFault e s).b = s.b := rfl
@[simp] theorem takeFault_r0 (e : ErrKind) (s : State) : (takeFault e s).r0 = s.r0 := rfl
@[simp] theorem takeFault_r1 (e : ErrKind) (s : State) : (takeFault e s).r1 = s.r1 := rfl
@[simp] theorem takeFault_cmd (e : ErrKind) (s : State) : (takeFault e s).cmd = s.cmd := rfl
@[simp] theorem takeFault_status (e : ErrKind) (s : State) : (takeFault e s).status = e.code := rfl
@[simp] theorem takeFault_seqStep (e : ErrKind) (s : State) : (takeFault e s).seqStep = s.seqStep := rfl
@[simp] theorem takeFault_ft (e : ErrKind) (s : State) : (takeFault e s).ft = s.ft := rfl
@[simp] theorem takeFault_queue (e : ErrKind) (s : State) : (takeFault e s).queue = s.queue := rfl
@[simp] theorem takeFault_tree (e : ErrKind) (s : State) : (takeFault e s).tree = s.tree := rfl
@[simp] theorem takeFault_codes (e : ErrKind) (s : State) : (takeFault e s).codes = s.codes := rfl
@[simp] theorem takeFault_bw (e : ErrKind) (s : State) : (takeFault e s).bw = s.bw := rfl
@[simp] theorem takeFault_br (e : ErrKind) (s : State) : (takeFault e s).br = s.br := rfl
@[simp] theorem takeFault_hdr (e : ErrKind) (s : State) : (takeFault e s).hdr = s.hdr := rfl
@[simp] theorem takeFault_dec (e : ErrKind) (s : State) : (takeFault e s).dec = s.dec := rfl
@[simp] theorem takeFault_src (e : ErrKind) (s : State) : (takeFault e s).src = s.src := rfl
@[simp] theorem takeFault_sink (e : ErrKind) (s : State) : (takeFault e s).sink = s.sink := rfl
@[simp] theorem takeFault_env (e : ErrKind) (s : State) : (takeFault e s).env = s.env := rfl
@[simp] theorem takeFault_host (e : ErrKind) (s : State) : (takeFault e s).host = s.host := rfl

end Sys2Proof.Machine
end

