-- ==== Sys2Proof/Laws/Cmd.lean ====
section
/-! SUPPORT. How commands run: one equation per way of building one, the weakest-precondition form `Ends` of a command,
and the packaged forms "moves only within a relation" and "keeps an invariant". -/
namespace Sys2Proof.Machine

variable {α β : Type}

/-! ### Running -/

@[simp] theorem Cmd.run_pure (a : α) (s : State) : (pure a : Cmd α) s = .ok a s := rfl

theorem Cmd.run_bind (c : Cmd α) (f : α → Cmd β) (s : State) :
    (c >>= f) s = match c s with
      | .ok a t => f a t
      | .error e t => .error e t := by
  show EStateM.bind c f s = _
  unfold EStateM.bind
  cases c s <;> rfl

@[simp] theorem Cmd.run_getState (s : State) : getState s = .ok s s := rfl

@[simp] theorem Cmd.run_update (f : State → State) (s : State) : update f s = .ok () (f s) := rfl

@[simp] theorem Cmd.run_raise (e : ErrKind) (s : State) : (raise e : Cmd α) s = .error (.raised e) s := rfl

@[simp] theorem Cmd.run_stuckAt (f : Fault) (s : State) : (stuckAt f : Cmd α) s = .error (.stuck f) s := rfl

/-- A step that ends normally hands its result and state to the next. -/
theorem Cmd.run_bind_ok {c : Cmd α} {f : α → Cmd β} {s t : State} {a : α} (h : c s = .ok a t) :
    (c >>= f) s = f a t := by rw [Cmd.run_bind, h]

/-- A step that ends early ends the whole (60_exceptions.md R180). -/
theorem Cmd.run_bind_error {c : Cmd α} {f : α → Cmd β} {s t : State} {e : Stop} (h : c s = .error e t) :
    (c >>= f) s = .error e t := by rw [Cmd.run_bind, h]

/-- A sequence that ends normally ran both parts normally. -/
theorem Cmd.bind_eq_ok {c : Cmd α} {f : α → Cmd β} {s t : State} {b : β} (h : (c >>= f) s = .ok b t) :
    ∃ a u, c s = .ok a u ∧ f a u = .ok b t := by
  rw [Cmd.run_bind] at h
  split at h
  · next a u hc => exact ⟨a, u, hc, h⟩
  · cases h

/-! ### Commands of the host -/

@[simp] theorem finish_ok (s : State) : finish (.ok () s) = .next (s.setStatus statusOk) := rfl

@[simp] theorem finish_raised (e : ErrKind) (s : State) : finish (.error (.raised e) s) = .next (takeFault e s) := rfl

@[simp] theorem finish_ioFailed (sp : Space) (s : State) :
    finish (.error (.ioFailed sp) s) = .next (takeFault .ioError s) := rfl

@[simp] theorem finish_stuck (f : Fault) (s : State) : finish (.error (.stuck f) s) = .fault f := rfl

/-- A command whose body ends normally answers a next state with STATUS Ok (10_state.md R13). -/
theorem issue_of_ok {c : Cmd Unit} {s t : State} (h : c (s.setSeqStep 0#4) = .ok () t) :
    issue c s = .next (t.setStatus statusOk) := by rw [issue, h, finish_ok]

/-- A command whose body raises answers a next state with the kind's code in STATUS (60_exceptions.md R175). -/
theorem issue_of_raised {c : Cmd Unit} {s t : State} {e : ErrKind}
    (h : c (s.setSeqStep 0#4) = .error (.raised e) t) : issue c s = .next (takeFault e t) := by
  rw [issue, h, finish_raised]

/-! ### Weakest preconditions -/

/-- The command, run at s, ends normally within Q or early within E. -/
def Ends (c : Cmd α) (s : State) (Q : α → State → Prop) (E : Stop → State → Prop) : Prop :=
  match c s with
  | .ok a t => Q a t
  | .error e t => E e t

variable {Q Q' : α → State → Prop} {R : β → State → Prop} {E E' : Stop → State → Prop} {s : State}

theorem ends_pure {a : α} (h : Q a s) : Ends (pure a) s Q E := h

theorem ends_getState {Q : State → State → Prop} (h : Q s s) : Ends getState s Q E := h

theorem ends_update {Q : Unit → State → Prop} {f : State → State} (h : Q () (f s)) : Ends (update f) s Q E := h

theorem ends_raise {e : ErrKind} (h : E (.raised e) s) : Ends (raise e : Cmd α) s Q E := h

theorem ends_stuckAt {f : Fault} (h : E (.stuck f) s) : Ends (stuckAt f : Cmd α) s Q E := h

theorem ends_bind {c : Cmd α} {f : α → Cmd β} (h : Ends c s (fun a t => Ends (f a) t R E) E) :
    Ends (c >>= f) s R E := by
  unfold Ends at h ⊢
  rw [Cmd.run_bind]
  cases hc : c s <;> simp only [hc] at h ⊢ <;> exact h

theorem ends_mono {c : Cmd α} (h : Ends c s Q E) (hQ : ∀ a t, Q a t → Q' a t) (hE : ∀ e t, E e t → E' e t) :
    Ends c s Q' E' := by
  unfold Ends at h ⊢
  cases hc : c s <;> simp only [hc] at h ⊢
  · exact hQ _ _ h
  · exact hE _ _ h

theorem ends_and {c : Cmd α} (h : Ends c s Q E) (h' : Ends c s Q' E') :
    Ends c s (fun a t => Q a t ∧ Q' a t) (fun e t => E e t ∧ E' e t) := by
  unfold Ends at h h' ⊢
  cases hc : c s <;> simp only [hc] at h h' ⊢ <;> exact ⟨h, h'⟩

theorem ends_ite {p : Prop} [Decidable p] {c d : Cmd α} (h : p → Ends c s Q E) (h' : ¬p → Ends d s Q E) :
    Ends (if p then c else d) s Q E := by
  split
  · next hp => exact h hp
  · next hp => exact h' hp

/-- What the outcome of a host-issued command is, from how its body ends. -/
theorem finish_of_ends {c : Cmd Unit} {s : State} {Q : Unit → State → Prop} {E : Stop → State → Prop}
    (h : Ends c s Q E) :
    (∃ t, Q () t ∧ finish (c s) = .next (t.setStatus statusOk)) ∨
    (∃ e t, E (.raised e) t ∧ finish (c s) = .next (takeFault e t)) ∨
    (∃ sp t, E (.ioFailed sp) t ∧ finish (c s) = .next (takeFault .ioError t)) ∨
    (∃ f t, E (.stuck f) t ∧ finish (c s) = .fault f) := by
  unfold Ends at h
  cases hc : c s with
  | ok a t => rw [hc] at h; exact .inl ⟨t, h, rfl⟩
  | error e t =>
    rw [hc] at h
    cases e with
    | raised e => exact .inr (.inl ⟨e, t, h, rfl⟩)
    | ioFailed sp => exact .inr (.inr (.inl ⟨sp, t, h, rfl⟩))
    | stuck f => exact .inr (.inr (.inr ⟨f, t, h, rfl⟩))

/-! ### Relations and invariants -/

/-- However the command ends, the state it leaves is related to the one it started from. -/
def Moves (R : State → State → Prop) (c : Cmd α) : Prop := ∀ s, Ends c s (fun _ t => R s t) (fun _ t => R s t)

section
variable {R : State → State → Prop}

theorem moves_pure (hr : ∀ s, R s s) (a : α) : Moves R (pure a : Cmd α) := fun s => hr s

theorem moves_getState (hr : ∀ s, R s s) : Moves R getState := fun s => hr s

theorem moves_raise (hr : ∀ s, R s s) (e : ErrKind) : Moves R (raise e : Cmd α) := fun s => hr s

theorem moves_stuckAt (hr : ∀ s, R s s) (f : Fault) : Moves R (stuckAt f : Cmd α) := fun s => hr s

theorem moves_update {f : State → State} (h : ∀ s, R s (f s)) : Moves R (update f) := fun s => h s

theorem moves_bind (ht : ∀ s t u, R s t → R t u → R s u) {c : Cmd α} {f : α → Cmd β}
    (hc : Moves R c) (hf : ∀ a, Moves R (f a)) : Moves R (c >>= f) := by
  intro s
  apply ends_bind
  exact ends_mono (hc s) (fun a t h => ends_mono (hf a t) (fun _ u h' => ht _ _ _ h h') (fun _ u h' => ht _ _ _ h h'))
    (fun _ _ h => h)

theorem moves_ite {p : Prop} [Decidable p] {c d : Cmd α} (hc : Moves R c) (hd : Moves R d) :
    Moves R (if p then c else d) := by
  split
  · exact hc
  · exact hd

end

/-- The command keeps the invariant however it ends, and is never stuck where the invariant holds. -/
def Keeps (I : State → Prop) (c : Cmd α) : Prop :=
  ∀ s, I s → Ends c s (fun _ t => I t) (fun e t => I t ∧ ∀ f, e ≠ .stuck f)

section
variable {I : State → Prop}

theorem keeps_pure (a : α) : Keeps I (pure a : Cmd α) := fun _ h => h

theorem keeps_getState : Keeps I getState := fun _ h => h

theorem keeps_raise (e : ErrKind) : Keeps I (raise e : Cmd α) := fun _ h => ⟨h, fun _ => by simp⟩

theorem keeps_update {f : State → State} (h : ∀ s, I s → I (f s)) : Keeps I (update f) := fun s hs => h s hs

theorem keeps_bind {c : Cmd α} {f : α → Cmd β} (hc : Keeps I c) (hf : ∀ a, Keeps I (f a)) : Keeps I (c >>= f) := by
  intro s hs
  apply ends_bind
  exact ends_mono (hc s hs) (fun a t h => hf a t h) (fun _ _ h => h)

theorem keeps_ite {p : Prop} [Decidable p] {c d : Cmd α} (hc : Keeps I c) (hd : Keeps I d) :
    Keeps I (if p then c else d) := by
  split
  · exact hc
  · exact hd

end

end Sys2Proof.Machine
end

