-- ==== Sys2Proof/Laws/Memory.lean ====
section
/-! SUPPORT. The laws of a byte space: read after write, and every write keeps the canonical form (20_memory.md R46). -/
namespace Sys2Proof.Machine

/-- No byte is listed at or below an offset that every listed offset exceeds. -/
theorem memRead_of_lt {m : Memory} {a : Nat} (h : ∀ c ∈ m, a < c.1) : memRead m a = Config.blankByte := by
  induction m with
  | nil => rfl
  | cons c m ih =>
    obtain ⟨k, v⟩ := c
    have hk : a < k := h (k, v) (by simp)
    simp only [memRead, if_neg (Nat.ne_of_lt hk)]
    exact ih fun c hc => h c (by simp [hc])

theorem memRead_cons_self (m : Memory) (a : Nat) (b : Byte) : memRead ((a, b) :: m) a = b := by simp [memRead]

theorem memRead_cons_ne {m : Memory} {a k : Nat} {b : Byte} (h : a ≠ k) : memRead ((k, b) :: m) a = memRead m a := by
  simp [memRead, h]

theorem memRead_memCons_self {m : Memory} {a : Nat} (b : Byte) (h : ∀ c ∈ m, a < c.1) :
    memRead (memCons a b m) a = b := by
  unfold memCons
  split
  · next hb => rw [memRead_of_lt h, hb]
  · exact memRead_cons_self m a b

theorem memRead_memCons_ne {m : Memory} {a k : Nat} {b : Byte} (h : a ≠ k) :
    memRead (memCons k b m) a = memRead m a := by
  unfold memCons
  split
  · rfl
  · exact memRead_cons_ne h

theorem memCons_wf {m : Memory} {a : Nat} {b : Byte} (hm : m.wf) (ha : a < 2 ^ 64) (h : ∀ c ∈ m, a < c.1) :
    (memCons a b m).wf := by
  unfold memCons
  split
  · exact hm
  · next hb =>
    refine ⟨List.pairwise_cons.2 ⟨h, hm.1⟩, ?_⟩
    intro c hc
    rcases List.mem_cons.1 hc with rfl | hc
    · exact ⟨ha, hb⟩
    · exact hm.2 c hc

theorem mem_memCons {m : Memory} {a : Nat} {b : Byte} {c : Host.Cell} (h : c ∈ memCons a b m) : c.1 = a ∨ c ∈ m := by
  unfold memCons at h
  split at h
  · exact .inr h
  · rcases List.mem_cons.1 h with rfl | h
    · exact .inl rfl
    · exact .inr h

theorem Memory.wf_tail {c : Host.Cell} {m : Memory} (h : Memory.wf (c :: m)) :
    Memory.wf m ∧ ∀ d ∈ m, c.1 < d.1 :=
  ⟨⟨(List.pairwise_cons.1 h.1).2, fun d hd => h.2 d (by simp [hd])⟩, (List.pairwise_cons.1 h.1).1⟩

theorem mem_memWrite {m : Memory} {a : Nat} {b : Byte} {c : Host.Cell} (h : c ∈ memWrite m a b) : c.1 = a ∨ c ∈ m := by
  induction m with
  | nil => exact mem_memCons h
  | cons d m ih =>
    obtain ⟨k, v⟩ := d
    simp only [memWrite] at h
    split at h
    · exact mem_memCons h
    · split at h
      · next hak =>
        rcases mem_memCons h with h | h
        · exact .inl h
        · exact .inr (by simp [h])
      · rcases List.mem_cons.1 h with rfl | h
        · exact .inr (by simp)
        · rcases ih h with h | h
          · exact .inl h
          · exact .inr (by simp [h])

/-- Every write keeps the canonical form. -/
theorem memWrite_wf {m : Memory} {a : Nat} (b : Byte) (hm : m.wf) (ha : a < 2 ^ 64) : (memWrite m a b).wf := by
  induction m with
  | nil => exact memCons_wf hm ha (by simp)
  | cons d m ih =>
    obtain ⟨k, v⟩ := d
    have ht := Memory.wf_tail hm
    simp only [memWrite]
    split
    · next hlt =>
      refine memCons_wf hm ha ?_
      intro c hc
      rcases List.mem_cons.1 hc with rfl | hc
      · exact hlt
      · exact Nat.lt_trans hlt (ht.2 c hc)
    · split
      · next hak => exact memCons_wf ht.1 ha (fun c hc => hak ▸ ht.2 c hc)
      · next hlt hne =>
        have hr := ih ht.1
        refine ⟨List.pairwise_cons.2 ⟨?_, hr.1⟩, ?_⟩
        · intro c hc
          rcases mem_memWrite hc with h | h
          · show k < c.1
            omega
          · exact ht.2 c h
        · intro c hc
          rcases List.mem_cons.1 hc with rfl | hc
          · exact hm.2 _ (by simp)
          · exact hr.2 c hc

/-- A byte reads back as it was written. -/
theorem memRead_memWrite_self {m : Memory} (a : Nat) (b : Byte) (hm : m.wf) : memRead (memWrite m a b) a = b := by
  induction m with
  | nil => exact memRead_memCons_self b (by simp)
  | cons d m ih =>
    obtain ⟨k, v⟩ := d
    have ht := Memory.wf_tail hm
    simp only [memWrite]
    split
    · next hlt =>
      refine memRead_memCons_self b ?_
      intro c hc
      rcases List.mem_cons.1 hc with rfl | hc
      · exact hlt
      · exact Nat.lt_trans hlt (ht.2 c hc)
    · split
      · next hak => exact memRead_memCons_self b (fun c hc => hak ▸ ht.2 c hc)
      · next hlt hne => rw [memRead_cons_ne hne]; exact ih ht.1

/-- A write leaves every other byte alone. -/
theorem memRead_memWrite_ne {m : Memory} {a k : Nat} (b : Byte) (h : a ≠ k) :
    memRead (memWrite m k b) a = memRead m a := by
  induction m with
  | nil => exact memRead_memCons_ne h
  | cons d m ih =>
    obtain ⟨j, v⟩ := d
    simp only [memWrite]
    split
    · exact memRead_memCons_ne h
    · split
      · next hkj =>
        rw [memRead_memCons_ne h, memRead_cons_ne (hkj ▸ h)]
      · by_cases haj : a = j
        · subst haj; rw [memRead_cons_self, memRead_cons_self]
        · rw [memRead_cons_ne haj, memRead_cons_ne haj, ih]

/-! ### Runs of bytes -/

@[simp] theorem length_memBytes (m : Memory) (a n : Nat) : (memBytes m a n).length = n := by
  induction n generalizing a with
  | zero => rfl
  | succ n ih => simp [memBytes, ih]

theorem getElem?_memBytes (m : Memory) (a n i : Nat) (h : i < n) : (memBytes m a n)[i]? = some (memRead m (a + i)) := by
  induction n generalizing a i with
  | zero => omega
  | succ n ih =>
    cases i with
    | zero => simp [memBytes]
    | succ i => simp only [memBytes, List.getElem?_cons_succ]; rw [ih (a + 1) i (by omega)]; congr 2; omega

theorem memBytes_append (m : Memory) (a n k : Nat) : memBytes m a (n + k) = memBytes m a n ++ memBytes m (a + n) k := by
  induction n generalizing a with
  | zero => simp [memBytes]
  | succ n ih => rw [Nat.succ_add, memBytes, memBytes, ih (a + 1), List.cons_append, Nat.add_right_comm, Nat.add_assoc]

/-- A write past the end of a run of bytes leaves it alone. -/
theorem memBytes_memWrite_of_le {m : Memory} {a n k : Nat} (b : Byte) (h : a + n ≤ k) :
    memBytes (memWrite m k b) a n = memBytes m a n := by
  induction n generalizing a with
  | zero => rfl
  | succ n ih => rw [memBytes, memBytes, memRead_memWrite_ne b (by omega), ih (by omega)]

end Sys2Proof.Machine
end

