-- ==== Sys2Proof/Laws/Streams.lean ====
section
/-! SUPPORT. What the access primitives do, each said once (20_memory.md R47 to R49, R56). -/
namespace Sys2Proof.Machine

/-- With the default oracle no access fails (20_memory.md R56). -/
theorem ioFails_of_nil {e : Env} (h : e.ioFaults = []) (sp : Space) (off : Word) : ioFails e sp off = false := by
  simp [ioFails, h]

@[simp] theorem Env.countAsk_tieRank (e : Env) : e.countAsk.tieRank = e.tieRank := rfl

@[simp] theorem Env.countAsk_ioFaults (e : Env) : e.countAsk.ioFaults = e.ioFaults := rfl

@[simp] theorem Env.countAsk_ioAsked (e : Env) : e.countAsk.ioAsked = e.ioAsked + 1 := rfl

theorem askIo_eq (sp : Space) (off : Word) (s : State) :
    askIo sp off s = if ioFails s.env sp off then .error (.ioFailed sp) (s.setEnv s.env.countAsk)
      else .ok () (s.setEnv s.env.countAsk) := rfl

/-- SrcByte() (20_memory.md R47). -/
theorem srcByte_eq (s : State) :
    srcByte s = if s.src.len ≤ s.src.pos then .ok none s
      else if ioFails s.env .inp s.src.pos then .error (.ioFailed .inp) (s.setEnv s.env.countAsk)
      else .ok (some (memRead s.src.mem s.src.pos.toNat)) ((s.setEnv s.env.countAsk).setSrc s.src.advance) := by
  rw [srcByte, Cmd.run_bind]
  simp only [Cmd.run_getState]
  split
  · rfl
  · rw [Cmd.run_bind, askIo_eq]
    cases ioFails s.env .inp s.src.pos <;> rfl

/-- SinkByte(v) (20_memory.md R48). -/
theorem sinkByte_eq (v : Byte) (s : State) :
    sinkByte v s = if ioFails s.env .out s.sink.pos then .error (.ioFailed .out) (s.setEnv s.env.countAsk)
      else .ok () ((s.setEnv s.env.countAsk).setSink (s.sink.append s.env.countAsk v)) := by
  rw [sinkByte, Cmd.run_bind]
  simp only [Cmd.run_getState]
  rw [Cmd.run_bind, askIo_eq]
  cases ioFails s.env .out s.sink.pos <;> rfl

/-- SinkPatch(off, v) (20_memory.md R49). -/
theorem sinkPatch_eq (off : Word) (v : Byte) (s : State) :
    sinkPatch off v s = if ioFails s.env .out off then .error (.ioFailed .out) (s.setEnv s.env.countAsk)
      else .ok () ((s.setEnv s.env.countAsk).setSink (s.sink.patch off v)) := by
  rw [sinkPatch, Cmd.run_bind, askIo_eq]
  cases ioFails s.env .out off <;> rfl

/-- IN_POS stays within IN_LEN when a byte is read (10_state.md R12). -/
theorem Stream.advance_pos {x : Stream} (h : ¬x.len ≤ x.pos) : x.advance.pos.toNat = x.pos.toNat + 1 := by
  have h1 : x.pos.toNat < x.len.toNat := by simpa [BitVec.le_def] using h
  have h2 := x.len.isLt
  simp [Stream.advance, BitVec.toNat_add]
  omega

@[simp] theorem Stream.advance_len (x : Stream) : x.advance.len = x.len := rfl

@[simp] theorem Stream.advance_mem (x : Stream) : x.advance.mem = x.mem := rfl

/-- A byte read is one byte less unread. -/
theorem bytesLeft_advance {s : State} (h : ¬s.src.len ≤ s.src.pos) (t : State) (ht : t.src = s.src.advance) :
    bytesLeft t + 1 = bytesLeft s := by
  have h1 : s.src.pos.toNat < s.src.len.toNat := by simpa [BitVec.le_def] using h
  simp only [bytesLeft, ht, Stream.advance_pos h, Stream.advance_len]
  omega

/-- Where the cursor is not at the last offset, it moves by one. -/
theorem nextOutPos_toNat {e : Env} {pos : Word} (h : pos.toNat < 2 ^ 64 - 1) :
    (nextOutPos e pos).toNat = pos.toNat + 1 := by
  have : pos ≠ BitVec.allOnes 64 := by
    intro hc
    rw [hc] at h
    simp at h
  rw [nextOutPos, if_neg this, BitVec.toNat_add]
  simp
  omega

/-- A write at the end of OUT appends (20_memory.md R48): cursor and length are one more. -/
theorem Stream.append_at_end {x : Stream} {e : Env} (v : Byte) (hp : x.pos = x.len) (hl : x.len.toNat < 2 ^ 64 - 1) :
    (x.append e v).pos = x.len + 1#64 ∧ (x.append e v).len = x.len + 1#64 ∧
      (x.append e v).mem = memWrite x.mem x.len.toNat v := by
  have h1 := nextOutPos_toNat (e := e) (pos := x.pos) (by rw [hp]; exact hl)
  have h2 : nextOutPos e x.pos = x.len + 1#64 := by
    apply BitVec.eq_of_toNat_eq
    rw [h1, hp, BitVec.toNat_add]
    simp
    omega
  have h3 : x.len < x.len + 1#64 := by
    rw [BitVec.lt_def, BitVec.toNat_add]
    simp
    omega
  refine ⟨?_, ?_, ?_⟩
  · simp [Stream.append, h2]
  · simp [Stream.append, h2, h3]
  · simp [Stream.append, hp]

/-- The bytes the host reads after a write at the end of OUT: the old ones and the new one. -/
theorem outBytes_append {s t : State} {e : Env} {v : Byte} (ht : t.sink = s.sink.append e v)
    (hp : s.sink.pos = s.sink.len) (hl : s.sink.len.toNat < 2 ^ 64 - 1) (hm : s.sink.mem.wf) :
    outBytes t = outBytes s ++ [v] := by
  obtain ⟨_, h2, h3⟩ := Stream.append_at_end (e := e) v hp hl
  have hlen : (s.sink.len + 1#64).toNat = s.sink.len.toNat + 1 := by
    rw [BitVec.toNat_add]; simp; omega
  simp only [outBytes, ht, h2, h3, hlen]
  rw [memBytes_append, memBytes_memWrite_of_le v (by omega)]
  simp [memBytes, memRead_memWrite_self _ _ hm]

/-- The sink's memory keeps its canonical form. -/
theorem Stream.append_wf {x : Stream} (e : Env) (v : Byte) (h : x.mem.wf) : (x.append e v).mem.wf :=
  memWrite_wf v h x.pos.isLt

/-- The sink's memory keeps its canonical form. -/
theorem Stream.patch_wf {x : Stream} (off : Word) (v : Byte) (h : x.mem.wf) : (x.patch off v).mem.wf :=
  memWrite_wf v h off.isLt

end Sys2Proof.Machine
end

