-- ==== Sys2Proof/Laws/Bits.lean ====
section
/-! SUPPORT. What the bit operations do, each said once (44_bit_writer.md R116 to R118, 45_bit_reader.md R126, R127). -/
namespace Sys2Proof.Machine

/-! ### Writing -/

/-- putBit writes the bit it names and no other. -/
theorem getLsbD_putBit (v : Byte) {i j : Nat} (b : Bool) (hi : i < 8) (hj : j < 8) :
    (putBit v i b).getLsbD j = if j = i then b else v.getLsbD j := by
  have h1 : (1#8 <<< i).getLsbD j = decide (j = i) := by
    rw [BitVec.getLsbD_shiftLeft]
    by_cases h : j = i
    · subst h; simp [hj]
    · by_cases hl : j < i
      · simp [hl, h]
      · have : j - i ≠ 0 := by omega
        simp [BitVec.getLsbD_one, h, this]
  unfold putBit
  split
  · next hb => rw [BitVec.getLsbD_or, h1]; by_cases h : j = i <;> simp [h, hb]
  · next hb => rw [BitVec.getLsbD_and, BitVec.getLsbD_not, h1]; by_cases h : j = i <;> simp [h, hb, hj]

@[simp] theorem BitWriter.place_nbits (w : BitWriter) (b : Bool) : (w.place b).nbits = w.nbits := rfl

@[simp] theorem BitWriter.place_total (w : BitWriter) (b : Bool) : (w.place b).total = w.total + 1 := rfl

theorem BitWriter.place_cur (w : BitWriter) (b : Bool) :
    (w.place b).cur = putBit w.cur (7 - w.nbits.toNat) b := rfl

/-- WriteBit(b) where the byte is not yet full (44_bit_writer.md R116). -/
theorem writeBit_eq_place {s : State} (b : Bool) (h : s.bw.nbits ≠ 7#3) :
    writeBit b s = .ok () (s.setBw { s.bw.place b with nbits := s.bw.nbits + 1#3 }) := by
  rw [writeBit, Cmd.run_bind]
  simp only [Cmd.run_update]
  rw [Cmd.run_bind]
  simp only [Cmd.run_getState]
  rw [if_neg (show ¬(s.setBw (s.bw.place b)).bw.nbits = 7#3 from h)]
  rfl

/-- WriteBit(b) where the byte becomes full (44_bit_writer.md R116, R121). -/
theorem writeBit_eq_send {s : State} (b : Bool) (h : s.bw.nbits = 7#3) :
    writeBit b s = match sinkByte (s.bw.place b).cur (s.setBw (s.bw.place b)) with
      | .ok () t => .ok () (t.setBw t.bw.flushed)
      | .error e t => .error e t := by
  rw [writeBit, Cmd.run_bind]
  simp only [Cmd.run_update]
  rw [Cmd.run_bind]
  simp only [Cmd.run_getState]
  rw [if_pos (show (s.setBw (s.bw.place b)).bw.nbits = 7#3 from h), Cmd.run_bind]
  simp only [State.setBw_bw]
  cases sinkByte (s.bw.place b).cur (s.setBw (s.bw.place b)) <;> rfl

theorem writeBitsFrom_succ (value : Pattern) (i n : Nat) (s : State) :
    writeBitsFrom value i (n + 1) s = (writeBit (value.getLsbD i) >>= fun _ => writeBitsFrom value (i + 1) n) s := rfl

/-- Close() (44_bit_writer.md R118). -/
theorem bwClose_eq (s : State) :
    bwClose s = if s.bw.nbits = 0#3 then .ok 0#8 s
      else match sinkByte s.bw.cur s with
        | .ok () t => .ok (8#8 - s.bw.nbits.setWidth 8) (t.setBw t.bw.flushed)
        | .error e t => .error e t := by
  rw [bwClose, Cmd.run_bind]
  simp only [Cmd.run_getState]
  split
  · rfl
  · rw [Cmd.run_bind]
    cases sinkByte s.bw.cur s <;> rfl

/-! ### Reading -/

/-- The fetch of ReadBit (45_bit_reader.md R126, R127). -/
theorem refill_eq (s : State) :
    refill s = if s.br.finished = true then .error (.raised .endOfStream) s
      else match srcByte s with
        | .ok none t => .error (.raised .endOfStream) t.setFinished
        | .ok (some v) t => .ok () (t.setBr { t.br with cur := v, left := 8#4 })
        | .error e t => .error e t := by
  rw [refill, Cmd.run_bind]
  simp only [Cmd.run_getState]
  split
  · rfl
  · rw [Cmd.run_bind]
    rcases srcByte s with ⟨_ | v, t⟩ | ⟨e, t⟩ <;> rfl

/-- One bit of the byte in hand (45_bit_reader.md R126). -/
theorem takeBit_eq (s : State) :
    takeBit s = if 8#4 < s.br.left then .error (.stuck .bitOutOfByte) s
      else .ok (s.br.cur.getLsbD (s.br.left.toNat - 1)) (s.setBr { s.br with left := s.br.left - 1#4 }) := by
  rw [takeBit, Cmd.run_bind]
  simp only [Cmd.run_getState]
  split <;> rfl

/-- ReadBit() (45_bit_reader.md R126). -/
theorem readBit_eq (s : State) :
    readBit s = if s.br.left = 0#4 then (refill >>= fun _ => takeBit) s else takeBit s := by
  rw [readBit, Cmd.run_bind]
  simp only [Cmd.run_getState]
  split <;> rfl

end Sys2Proof.Machine
end

