-- ==== Sys2Proof/Laws/Tables.lean ====
section
/-! SUPPORT. The laws of the tables FT, CT, NODE and of the big-endian bytes (10_state.md R15, R17, R19; 20_memory.md R43). -/
namespace Sys2Proof.Machine

/-! ### FT, CT, NODE -/

@[simp] theorem ftAt_ftPut_self (ft : Vector FtEntry 256) (s : Byte) (e : FtEntry) : ftAt (ftPut ft s e) s = e := by
  simp [ftAt, ftPut]

theorem ftAt_ftPut_ne (ft : Vector FtEntry 256) {s x : Byte} (e : FtEntry) (h : x ≠ s) :
    ftAt (ftPut ft s e) x = ftAt ft x := by
  have : s.toNat ≠ x.toNat := fun hc => h (BitVec.eq_of_toNat_eq hc.symm)
  simp [ftAt, ftPut, this]

theorem ftAt_ftPut (ft : Vector FtEntry 256) (s x : Byte) (e : FtEntry) :
    ftAt (ftPut ft s e) x = if x = s then e else ftAt ft x := by
  split
  · next h => rw [h, ftAt_ftPut_self]
  · next h => exact ftAt_ftPut_ne ft e h

@[simp] theorem ftAt_ftEmpty (s : Byte) : ftAt ftEmpty s = FtEntry.empty := by simp [ftAt, ftEmpty]

/-- Two tables with the same entries are the same table. -/
theorem ft_ext {f g : Vector FtEntry 256} (h : ∀ s, ftAt f s = ftAt g s) : f = g := by
  apply Vector.ext
  intro i hi
  have := h (BitVec.ofNat 8 i)
  simpa [ftAt, Nat.mod_eq_of_lt hi] using this

@[simp] theorem ctAt_ctPut_self (ct : Vector Code 256) (s : Byte) (c : Code) : ctAt (ctPut ct s c) s = c := by
  simp [ctAt, ctPut]

theorem ctAt_ctPut_ne (ct : Vector Code 256) {s x : Byte} (c : Code) (h : x ≠ s) :
    ctAt (ctPut ct s c) x = ctAt ct x := by
  have : s.toNat ≠ x.toNat := fun hc => h (BitVec.eq_of_toNat_eq hc.symm)
  simp [ctAt, ctPut, this]

@[simp] theorem ctAt_ctEmpty (s : Byte) : ctAt ctEmpty s = Code.none := by simp [ctAt, ctEmpty]

theorem nodeAt_nodePut_self (node : Vector Node 511) {i : NodeIx} (n : Node) (h : i.toNat < 511) :
    nodeAt (nodePut node i n) i = some n := by
  simp [nodeAt, nodePut, h]

theorem nodeAt_nodePut_ne (node : Vector Node 511) {i j : NodeIx} (n : Node) (h : j ≠ i) :
    nodeAt (nodePut node i n) j = nodeAt node j := by
  have : i.toNat ≠ j.toNat := fun hc => h (BitVec.eq_of_toNat_eq hc.symm)
  simp [nodeAt, nodePut, this]

/-- Every index but NULL names a record (10_state.md R17). -/
theorem nodeAt_isSome (node : Vector Node 511) {i : NodeIx} (h : i.toNat < 511) : ∃ n, nodeAt node i = some n :=
  ⟨node[i.toNat], by simp [nodeAt, h]⟩

theorem readNode_eq (s : State) (i : NodeIx) :
    readNode i s = match nodeAt s.tree.node i with
      | some n => .ok n s
      | none => .error (.stuck .nodeOutOfArena) s := by
  rw [readNode, Cmd.run_bind]
  simp only [Cmd.run_getState]
  cases nodeAt s.tree.node i <;> rfl

/-! ### The symbols of a table -/

theorem mem_allSyms (s : Byte) : s ∈ allSyms := by
  refine List.mem_map.2 ⟨s.toNat, List.mem_range.2 s.isLt, ?_⟩
  simp

theorem allSyms_pairwise : allSyms.Pairwise (· < ·) := by
  refine List.pairwise_map.2 (List.Pairwise.imp_of_mem ?_ List.pairwise_lt_range)
  intro a b ha hb hab
  rw [BitVec.lt_def]
  have ha := List.mem_range.1 ha
  have hb := List.mem_range.1 hb
  simp [Nat.mod_eq_of_lt ha, Nat.mod_eq_of_lt hb, hab]

@[simp] theorem length_allSyms : allSyms.length = 256 := by simp [allSyms]

theorem mem_presentSyms {ft : Vector FtEntry 256} {s : Byte} : s ∈ presentSyms ft ↔ (ftAt ft s).present = true := by
  simp [presentSyms, mem_allSyms]

/-- The symbols come in ascending order, each once (42_tree_builder.md R97). -/
theorem presentSyms_pairwise (ft : Vector FtEntry 256) : (presentSyms ft).Pairwise (· < ·) :=
  allSyms_pairwise.sublist List.filter_sublist

theorem ftN_le (ft : Vector FtEntry 256) : ftN ft ≤ 256 := by
  have := List.length_filter_le (fun s => (ftAt ft s).present) allSyms
  simpa [ftN, presentSyms] using this

@[simp] theorem presentSyms_ftEmpty : presentSyms ftEmpty = [] := by
  simp [presentSyms, FtEntry.empty]

@[simp] theorem ftN_ftEmpty : ftN ftEmpty = 0 := by simp [ftN]

/-- FT_N depends on `present` alone (10_state.md R15). -/
theorem presentSyms_congr {f g : Vector FtEntry 256} (h : ∀ s, (ftAt f s).present = (ftAt g s).present) :
    presentSyms f = presentSyms g := by simp [presentSyms, h]

/-! ### Big-endian bytes -/

@[simp] theorem length_beBytes (n v : Nat) : (beBytes n v).length = n := by
  induction n with
  | zero => rfl
  | succ n ih => simp [beBytes, ih]

@[simp] theorem length_be64Bytes (v : Word) : (be64Bytes v).length = 8 := length_beBytes 8 _

@[simp] theorem length_be32Bytes (v : Count) : (be32Bytes v).length = 4 := length_beBytes 4 _

theorem beValue_foldl (bs : List Byte) (acc : Nat) :
    bs.foldl (fun acc b => acc * 256 + b.toNat) acc = acc * 256 ^ bs.length + beValue bs := by
  unfold beValue
  induction bs generalizing acc with
  | nil => simp
  | cons b bs ih =>
    simp only [List.foldl_cons, List.length_cons]
    rw [ih, ih (0 * 256 + b.toNat)]
    ring

/-- Splitting a number into its bytes and putting them together gives it back, modulo the bytes' range. -/
theorem beValue_beBytes (n v : Nat) : beValue (beBytes n v) = v % 256 ^ n := by
  induction n with
  | zero => simp [beBytes, beValue, Nat.mod_one]
  | succ n ih =>
    have : beValue (beBytes (n + 1) v) = (v / 256 ^ n % 256) * 256 ^ n + beValue (beBytes n v) := by
      show List.foldl _ 0 (BitVec.ofNat 8 (v / 256 ^ n) :: beBytes n v) = _
      rw [List.foldl_cons, beValue_foldl, length_beBytes]
      simp
    rw [this, ih, pow_succ, Nat.mod_mul, Nat.add_comm, Nat.mul_comm]

theorem be64Value_be64Bytes (v : Word) : be64Value (be64Bytes v) = v := by
  apply BitVec.eq_of_toNat_eq
  rw [be64Value, be64Bytes, beValue_beBytes, BitVec.toNat_ofNat]
  have := v.isLt
  omega

theorem be32Value_be32Bytes (v : Count) : be32Value (be32Bytes v) = v := by
  apply BitVec.eq_of_toNat_eq
  rw [be32Value, be32Bytes, beValue_beBytes, BitVec.toNat_ofNat]
  have := v.isLt
  omega

end Sys2Proof.Machine
end

