-- ==== Sys2Proof/Laws/Codecs.lean ====
section
/-! SUPPORT. What the operations of the table, code, container and decode commands do, each said once. -/
namespace Sys2Proof.Machine

/-! ### Flags and counts -/

/-- A flag that is needed (10_state.md R26). -/
theorem need_eq (flag : State → Bool) (s : State) :
    need flag s = if flag s = true then .ok () s else .error (.raised .notReady) s := rfl

/-- One byte counted (40_frequency_table.md R82, R83). -/
theorem countByte_eq (v : Byte) (s : State) :
    countByte v s = if (ftAt s.ft v).count = BitVec.allOnes 32 then .error (.raised .freqOverflow) s
      else .ok () (s.setFt (ftPut s.ft v { present := true, count := (ftAt s.ft v).count + 1#32 })) := rfl

/-- A pass of the scan (40_frequency_table.md R82). -/
theorem scanLoop_succ (k : Nat) (n : Word) (s : State) :
    scanLoop (k + 1) n s = match srcByte s with
      | .ok none t => .ok n t
      | .ok (some v) t => (countByte v >>= fun _ => scanLoop k (n + 1#64)) t
      | .error e t => .error e t := by
  rw [scanLoop, Cmd.run_bind]
  rcases srcByte s with ⟨_ | v, t⟩ | ⟨e, t⟩ <;> rfl

/-! ### Codes -/

theorem setCode_eq (x : Byte) (c : Code) (s : State) :
    setCode x c s = .ok () (s.setCodes { s.codes with ct := ctPut s.codes.ct x c }) := rfl

/-- CheckCodes() changes nothing (43_code_generator.md R108). -/
theorem checkCodes_eq (s : State) :
    checkCodes s = if codesOk s.codes.ct = true then .ok () s else .error (.raised .internalCheckFailed) s := rfl

/-- Walk on a leaf gives its code, on the filler nothing (43_code_generator.md R106). -/
theorem walk_leaf {k : Nat} {i : NodeIx} {bits : Pattern} {depth : Nat} {s : State} {nd : Node}
    (h : nodeAt s.tree.node i = some nd) (hk : nd.kind = .leaf) :
    walk (k + 1) i bits depth s = if nd.filler = true then .ok () s
      else setCode nd.sym { valid := true, len := BitVec.ofNat 8 depth, bits := bits } s := by
  have hr : readNode i s = .ok nd s := by rw [readNode_eq, h]
  rw [walk, Cmd.run_bind_ok hr, hk]
  cases nd.filler <;> rfl

/-- Walk on an Internal node takes the left child, then the right (43_code_generator.md R106). -/
theorem walk_internal {k : Nat} {i : NodeIx} {bits : Pattern} {depth : Nat} {s : State} {nd : Node}
    (h : nodeAt s.tree.node i = some nd) (hk : nd.kind = .internal) :
    walk (k + 1) i bits depth s =
      (walk k nd.left bits (depth + 1) >>= fun _ => walk k nd.right (bits ||| (1#256 <<< depth)) (depth + 1)) s := by
  have hr : readNode i s = .ok nd s := by rw [readNode_eq, h]
  rw [walk, Cmd.run_bind_ok hr, hk]

/-! ### Containers -/

/-- Need() (46_container_format.md R133). -/
theorem needByte_eq (s : State) :
    needByte s = match srcByte s with
      | .ok none t => .error (.raised .truncatedHeader) t
      | .ok (some v) t => .ok v t
      | .error e t => .error e t := by
  rw [needByte, Cmd.run_bind]
  rcases srcByte s with ⟨_ | v, t⟩ | ⟨e, t⟩ <;> rfl

theorem needBytes_succ (n : Nat) (s : State) :
    needBytes (n + 1) s = (needByte >>= fun b => needBytes n >>= fun bs => pure (b :: bs)) s := rfl

theorem readEntries_succ (i n : Nat) (s : State) :
    readEntries i (n + 1) s = (readEntry i >>= fun _ => readEntries (i + 1) n) s := rfl

theorem sinkBytes_cons (b : Byte) (bs : List Byte) (s : State) :
    sinkBytes (b :: bs) s = (sinkByte b >>= fun _ => sinkBytes bs) s := rfl

/-! ### Sequences -/

/-- One byte encoded (47_compress_sequencer.md R144). -/
theorem encodeByte_eq (v : Byte) (s : State) :
    encodeByte v s = if (ctAt s.codes.ct v).valid = true
      then writeBits (ctAt s.codes.ct v).bits (ctAt s.codes.ct v).len.toNat s
      else .error (.raised .missingCode) s := by
  rw [encodeByte, Cmd.run_bind]
  simp only [Cmd.run_getState]
  split <;> rfl

/-- A pass of the encode loop (47_compress_sequencer.md R144). -/
theorem encodeLoop_succ (k : Nat) (s : State) :
    encodeLoop (k + 1) s = match srcByte s with
      | .ok none t => .ok () t
      | .ok (some v) t => (encodeByte v >>= fun _ => encodeLoop k) t
      | .error e t => .error e t := by
  rw [encodeLoop, Cmd.run_bind]
  rcases srcByte s with ⟨_ | v, t⟩ | ⟨e, t⟩ <;> rfl

/-- The checks of PATCH_PADDING, in their order (47_compress_sequencer.md R145). -/
theorem patchPadding_eq (pad : Byte) (s : State) :
    patchPadding pad s = if 7#8 < pad then .error (.raised .badOperand) s
      else if s.sink.len ≤ Config.padOffset then .error (.raised .notReady) s
      else sinkPatch Config.padOffset pad s := by
  rw [patchPadding, Cmd.run_bind]
  simp only [Cmd.run_getState]
  split
  · rfl
  · split <;> rfl

/-- The symbol of a leaf goes out (48_decode_traversal.md R157). -/
theorem emitSymbol_eq (x : Byte) (s : State) :
    emitSymbol x s = match sinkByte x s with
      | .ok () t => .ok (some x) (t.setDec { t.dec with count := nextDecCount t.env t.dec.count, cur := t.tree.root })
      | .error e t => .error e t := by
  rw [emitSymbol, Cmd.run_bind]
  cases sinkByte x s <;> rfl

/-- A move to no node (48_decode_traversal.md R157, R161). -/
theorem descend_null (s : State) : descend Config.null s = .error (.raised .corruptStream) s := rfl

/-- A move to a node (48_decode_traversal.md R157). -/
theorem descend_eq {c : NodeIx} {s : State} {ch : Node} (hc : c ≠ Config.null) (h : nodeAt s.tree.node c = some ch) :
    descend c s = match ch.kind with
      | .leaf => if ch.filler = true then .error (.raised .corruptStream) s else emitSymbol ch.sym s
      | .internal => .ok none (s.setDec { s.dec with cur := c }) := by
  have hr : readNode c s = .ok ch s := by rw [readNode_eq, h]
  rw [descend, if_neg hc, Cmd.run_bind_ok hr]
  cases ch.kind
  · simp only
    cases ch.filler <;> rfl
  · rfl

/-- ReadBit inside the decoder, where it gives a bit (48_decode_traversal.md R157). -/
theorem decReadBit_of_ok {s t : State} {b : Bool} (h : readBit s = .ok b t) : decReadBit s = .ok b t := by
  rw [decReadBit, h]

/-- ReadBit inside the decoder, at the end of the stream (60_exceptions.md R184). -/
theorem decReadBit_of_end {s t : State} (h : readBit s = .error (.raised .endOfStream) t) :
    decReadBit s = .error (.raised .truncatedStream) t := by
  rw [decReadBit, h]

/-- The loop stops when DEC_COUNT has reached HDR_SIZE (48_decode_traversal.md R159). -/
theorem decodeLoop_of_done {k : Nat} {s : State} (h : moreToDecode s = false) : decodeLoop k s = .ok () s := by
  cases k <;> (rw [decodeLoop, Cmd.run_bind]; simp [h])

/-- A pass of the loop (48_decode_traversal.md R159). -/
theorem decodeLoop_succ {k : Nat} {s : State} (h : moreToDecode s = true) :
    decodeLoop (k + 1) s = (decStepBody >>= fun _ => decodeLoop k) s := by
  rw [decodeLoop, Cmd.run_bind]
  simp only [Cmd.run_getState, h, if_true]

end Sys2Proof.Machine
end

