-- ==== Sys2Proof/Laws/Lines.lean ====
section
/-! SUPPORT. Program lines: their encodings and what each action of the host does in a step (30_encoding.md R73,
10_state.md R29). -/
namespace Sys2Proof

/-- For format N the encoding is the opcode alone (30_encoding.md R73). -/
theorem encodeLine_of_n {l : Line} (h : l.instr.format = .n) : encodeLine l = .opcode (encode l.instr) := by
  simp [encodeLine, h]

/-- For formats A and AB it is a triple (30_encoding.md R73). -/
theorem encodeLine_of_operands {l : Line} (h : l.instr.format ≠ .n) :
    encodeLine l = .triple (encode l.instr) (BitVec.ofNat 256 l.fit.a) (BitVec.ofNat 64 l.fit.b) := by
  unfold encodeLine
  split
  · next hn => exact absurd hn h
  · rfl
  · rfl

/-- Operands cut to the slices fit them. -/
theorem Line.fit_wellFormed (l : Line) : l.fit.WellFormed :=
  ⟨Nat.mod_lt _ (Nat.two_pow_pos _), Nat.mod_lt _ (Nat.two_pow_pos _)⟩

/-- A line whose operands fit is as it was. -/
theorem Line.fit_of_wellFormed {l : Line} (h : l.WellFormed) : l.fit = l := by
  rw [Line.fit, Nat.mod_eq_of_lt h.1, Nat.mod_eq_of_lt h.2]

@[simp] theorem Line.fit_fit (l : Line) : l.fit.fit = l.fit := Line.fit_of_wellFormed l.fit_wellFormed

@[simp] theorem Line.fit_instr (l : Line) : l.fit.instr = l.instr := rfl

/-- A line and the line cut to its slices have one encoding. -/
theorem encodeLine_fit (l : Line) : encodeLine l.fit = encodeLine l := by
  simp only [encodeLine, Line.fit_instr, Line.fit_fit]

/-- The slices a command names are values that fit them. -/
theorem sliceLine_wellFormed (i : Instr) (a : Pattern) (b : Word) : (sliceLine i a b).WellFormed := Line.fit_wellFormed _

namespace Machine

/-- A line of format N is issued by one write of CMD. -/
theorem lineActions_of_n {l : Line} (h : l.instr.format = .n) : lineActions l = [.writeCmd (encode l.instr)] := by
  rw [lineActions, encodeLine_of_n h]
  rfl

/-- Another line is issued by three writes. -/
theorem lineActions_of_operands {l : Line} (h : l.instr.format ≠ .n) :
    lineActions l =
      [.writeA (BitVec.ofNat 256 l.fit.a), .writeB (BitVec.ofNat 64 l.fit.b), .writeCmd (encode l.instr)] := by
  rw [lineActions, encodeLine_of_operands h]
  rfl

theorem step_writeA {s : State} {v : Pattern} {rest : List HostAction} (h : s.host = .writeA v :: rest) :
    step s = .next { s with a := v, host := rest } := by
  simp [step, takeHost, h]

theorem step_writeB {s : State} {v : Word} {rest : List HostAction} (h : s.host = .writeB v :: rest) :
    step s = .next { s with b := v, host := rest } := by
  simp [step, takeHost, h]

/-- A run goes on from the state a step answers. -/
theorem run_succ {M : Host.Core} {n : Nat} {s t : M.State} (h : M.step s = .next t) : M.run (n + 1) s = M.run n t := by
  rw [Host.Core.run, h]

/-- The same of this machine. -/
theorem run_succ_of_next {n : Nat} {s t : State} (h : step s = .next t) :
    Sys2Proof.core.run (n + 1) s = Sys2Proof.core.run n t :=
  run_succ (M := Sys2Proof.core) h

end Machine
end Sys2Proof
end

