-- ==== Sys2Proof/Laws/PerInstr.lean ====
section
/-! SUPPORT. Statements about every command as syntax, one lemma per constructor. -/
namespace Sys2Proof.Laws

/-- The command's opcode decodes to it, both through the decoder and through the table's numbering, the slices it reads lie
within A and B, and its format says which of the two it reads (30_encoding.md R68, R69, R70). -/
def Encoding.Statement (i : Instr) : Prop :=
  decode (encode i) = .ok i ∧ decodeTableWord 8 (encode i).toNat = some i ∧ i.widthA ≤ 256 ∧ i.widthB ≤ 64 ∧
  (i.format = .n ↔ i.widthA = 0) ∧ (i.format = .ab ↔ 0 < i.widthB)

theorem Encoding.ftClear : Encoding.Statement .ftClear :=
  ⟨rfl, rfl, by decide, by decide, by decide, by decide⟩
theorem Encoding.ftSet : Encoding.Statement .ftSet :=
  ⟨rfl, rfl, by decide, by decide, by decide, by decide⟩
theorem Encoding.freqScan : Encoding.Statement .freqScan :=
  ⟨rfl, rfl, by decide, by decide, by decide, by decide⟩
theorem Encoding.srcOpen : Encoding.Statement .srcOpen :=
  ⟨rfl, rfl, by decide, by decide, by decide, by decide⟩
theorem Encoding.sinkOpen : Encoding.Statement .sinkOpen :=
  ⟨rfl, rfl, by decide, by decide, by decide, by decide⟩
theorem Encoding.pqInit : Encoding.Statement .pqInit :=
  ⟨rfl, rfl, by decide, by decide, by decide, by decide⟩
theorem Encoding.pqInsert : Encoding.Statement .pqInsert :=
  ⟨rfl, rfl, by decide, by decide, by decide, by decide⟩
theorem Encoding.pqExtractMin : Encoding.Statement .pqExtractMin :=
  ⟨rfl, rfl, by decide, by decide, by decide, by decide⟩
theorem Encoding.pqPeek : Encoding.Statement .pqPeek :=
  ⟨rfl, rfl, by decide, by decide, by decide, by decide⟩
theorem Encoding.pqSize : Encoding.Statement .pqSize :=
  ⟨rfl, rfl, by decide, by decide, by decide, by decide⟩
theorem Encoding.pqIsEmpty : Encoding.Statement .pqIsEmpty :=
  ⟨rfl, rfl, by decide, by decide, by decide, by decide⟩
theorem Encoding.tbBuild : Encoding.Statement .tbBuild :=
  ⟨rfl, rfl, by decide, by decide, by decide, by decide⟩
theorem Encoding.cgGenerate : Encoding.Statement .cgGenerate :=
  ⟨rfl, rfl, by decide, by decide, by decide, by decide⟩
theorem Encoding.cgVerify : Encoding.Statement .cgVerify :=
  ⟨rfl, rfl, by decide, by decide, by decide, by decide⟩
theorem Encoding.bwInit : Encoding.Statement .bwInit :=
  ⟨rfl, rfl, by decide, by decide, by decide, by decide⟩
theorem Encoding.bwWriteBit : Encoding.Statement .bwWriteBit :=
  ⟨rfl, rfl, by decide, by decide, by decide, by decide⟩
theorem Encoding.bwWriteBits : Encoding.Statement .bwWriteBits :=
  ⟨rfl, rfl, by decide, by decide, by decide, by decide⟩
theorem Encoding.bwClose : Encoding.Statement .bwClose :=
  ⟨rfl, rfl, by decide, by decide, by decide, by decide⟩
theorem Encoding.brInit : Encoding.Statement .brInit :=
  ⟨rfl, rfl, by decide, by decide, by decide, by decide⟩
theorem Encoding.brReadBit : Encoding.Statement .brReadBit :=
  ⟨rfl, rfl, by decide, by decide, by decide, by decide⟩
theorem Encoding.cfWriteHeader : Encoding.Statement .cfWriteHeader :=
  ⟨rfl, rfl, by decide, by decide, by decide, by decide⟩
theorem Encoding.cfReadHeader : Encoding.Statement .cfReadHeader :=
  ⟨rfl, rfl, by decide, by decide, by decide, by decide⟩
theorem Encoding.compress : Encoding.Statement .compress :=
  ⟨rfl, rfl, by decide, by decide, by decide, by decide⟩
theorem Encoding.encodeStream : Encoding.Statement .encodeStream :=
  ⟨rfl, rfl, by decide, by decide, by decide, by decide⟩
theorem Encoding.patchPadding : Encoding.Statement .patchPadding :=
  ⟨rfl, rfl, by decide, by decide, by decide, by decide⟩
theorem Encoding.decompress : Encoding.Statement .decompress :=
  ⟨rfl, rfl, by decide, by decide, by decide, by decide⟩
theorem Encoding.decInit : Encoding.Statement .decInit :=
  ⟨rfl, rfl, by decide, by decide, by decide, by decide⟩
theorem Encoding.decStep : Encoding.Statement .decStep :=
  ⟨rfl, rfl, by decide, by decide, by decide, by decide⟩
theorem Encoding.decStream : Encoding.Statement .decStream :=
  ⟨rfl, rfl, by decide, by decide, by decide, by decide⟩

end Sys2Proof.Laws
end

