-- ==== Sys2Proof/Laws/Queue.lean ====
section
/-! SUPPORT. What the operations over the priority queue and the node arena do, each said once (41_priority_queue.md,
42_tree_builder.md). -/
namespace Sys2Proof.Machine

/-! ### The queue -/

theorem minFrom_mem (env : Env) (e : PqEntry) (es : List PqEntry) : minFrom env e es ∈ e :: es := by
  induction es generalizing e with
  | nil => simp [minFrom]
  | cons f fs ih =>
    rw [minFrom]
    split
    · exact List.mem_cons_of_mem _ (ih f)
    · rcases List.mem_cons.1 (ih e) with h | h
      · rw [h]; simp
      · simp [h]

/-- What comes out of a queue was in it. -/
theorem mem_of_minEntry {env : Env} {es : List PqEntry} {e : PqEntry} (h : minEntry env es = some e) : e ∈ es := by
  cases es with
  | nil => simp [minEntry] at h
  | cons f fs =>
    simp only [minEntry, Option.some.injEq] at h
    exact h ▸ minFrom_mem env f fs

@[simp] theorem minEntry_nil (env : Env) : minEntry env [] = none := rfl

/-- Only an empty queue has no least entry (41_priority_queue.md R89). -/
theorem minEntry_eq_none {env : Env} {es : List PqEntry} : minEntry env es = none ↔ es = [] := by
  cases es <;> simp [minEntry]

/-- An entry taken out leaves one entry less. -/
theorem length_erase_minEntry {env : Env} {es : List PqEntry} {e : PqEntry} (h : minEntry env es = some e) :
    (es.erase e).length + 1 = es.length := by
  have hm := mem_of_minEntry h
  have := List.length_pos_of_mem hm
  rw [List.length_erase_of_mem hm]
  omega

theorem pqInit_eq (s : State) : pqInit s = .ok () (s.setQueue { entries := [], seq := 0 }) := rfl

theorem pqInsert_eq (value : BitVec 16) (prio : Word) (s : State) :
    pqInsert value prio s = .ok () (s.setQueue
      { entries := s.queue.entries ++ [{ value := value, prio := prio, seq := s.queue.seq }]
        seq := s.queue.seq + 1 }) := rfl

theorem pqPeek_eq (s : State) :
    pqPeek s = match minEntry s.env s.queue.entries with
      | none => .error (.raised .queueEmpty) s
      | some e => .ok e s := by
  rw [pqPeek, Cmd.run_bind]
  simp only [Cmd.run_getState]
  cases minEntry s.env s.queue.entries <;> rfl

theorem pqExtractMin_eq (s : State) :
    pqExtractMin s = match minEntry s.env s.queue.entries with
      | none => .error (.raised .queueEmpty) s
      | some e => .ok e (s.setQueue { s.queue with entries := s.queue.entries.erase e }) := by
  rw [pqExtractMin, Cmd.run_bind]
  simp only [Cmd.run_getState]
  cases minEntry s.env s.queue.entries <;> rfl

/-! ### The arena -/

theorem addAndQueue_eq (n : Node) (s : State) :
    addAndQueue n s = .ok () ((s.setTree (s.tree.add n)).setQueue
      { entries := s.queue.entries ++ [{ value := s.tree.cnt.setWidth 16, prio := n.freq, seq := s.queue.seq }]
        seq := s.queue.seq + 1 }) := rfl

theorem setRoot_eq (r : NodeIx) (s : State) : setRoot r s = .ok () (s.setTree { s.tree with root := r }) := rfl

/-- The record added is the one read back, every other stays. -/
theorem nodeAt_add_self {t : Tree} (n : Node) (h : t.cnt.toNat < 511) : nodeAt (t.add n).node t.cnt = some n :=
  nodeAt_nodePut_self t.node n h

theorem nodeAt_add_ne {t : Tree} (n : Node) {i : NodeIx} (h : i ≠ t.cnt) :
    nodeAt (t.add n).node i = nodeAt t.node i := nodeAt_nodePut_ne t.node n h

@[simp] theorem Tree.add_cnt (t : Tree) (n : Node) : (t.add n).cnt = t.cnt + 1#9 := rfl

@[simp] theorem Tree.add_root (t : Tree) (n : Node) : (t.add n).root = t.root := rfl

@[simp] theorem Tree.add_valid (t : Tree) (n : Node) : (t.add n).valid = t.valid := rfl

/-- One combination, given the two entries that come out (42_tree_builder.md R97). -/
theorem combine_eq {s : State} {a b : PqEntry} (ha : minEntry s.env s.queue.entries = some a)
    (hb : minEntry s.env (s.queue.entries.erase a) = some b) :
    combine s = addAndQueue (internalNode (a.prio + b.prio) (a.value.setWidth 9) (b.value.setWidth 9))
      (s.setQueue { s.queue with entries := (s.queue.entries.erase a).erase b }) := by
  have h1 : pqExtractMin s = .ok a (s.setQueue { s.queue with entries := s.queue.entries.erase a }) := by
    rw [pqExtractMin_eq, ha]
  have h2 : pqExtractMin (s.setQueue { s.queue with entries := s.queue.entries.erase a }) =
      .ok b (s.setQueue { s.queue with entries := (s.queue.entries.erase a).erase b }) := by
    rw [pqExtractMin_eq]
    simp only [State.setQueue_env, State.setQueue_queue, hb]
    rfl
  rw [combine, Cmd.run_bind_ok h1, Cmd.run_bind_ok h2]

/-- The loop stops at the first state with fewer than two entries (42_tree_builder.md R97). -/
theorem combineAll_of_lt {k : Nat} {s : State} (h : s.queue.entries.length < 2) : combineAll k s = .ok () s := by
  cases k with
  | zero => rfl
  | succ k =>
    rw [combineAll, Cmd.run_bind]
    simp [h]

/-- A pass of the loop (42_tree_builder.md R97). -/
theorem combineAll_succ {k : Nat} {s : State} (h : 2 ≤ s.queue.entries.length) :
    combineAll (k + 1) s = (combine >>= fun _ => combineAll k) s := by
  rw [combineAll, Cmd.run_bind]
  simp only [Cmd.run_getState, if_neg (Nat.not_lt.2 h)]

theorem addLeaves_cons (x : Byte) (xs : List Byte) (s : State) :
    addLeaves (x :: xs) s = (addAndQueue (leafNode x (ftAt s.ft x).count) >>= fun _ => addLeaves xs) s := rfl

end Sys2Proof.Machine
end

