-- ==== Sys2Proof/Laws/Words.lean ====
section
/-! SUPPORT. Small lemmas about the words of the statements: accesses that fail, bytes put at an offset, walks over bits. -/
namespace Sys2Proof.Machine

/-! ### Accesses -/

/-- With the default oracle none of any accesses fails (20_memory.md R56). -/
theorem noneFails_of_nil {s : State} (h : s.env.ioFaults = []) (asks : List Access) : NoneFails s asks := by
  intro k
  unfold failsAt
  cases asks[k]? with
  | none => rfl
  | some a => exact ioFails_of_nil (e := askedMore s k) h _ _

/-- The access that fails is one of those asked. -/
theorem FirstFails.lt {s : State} {asks : List Access} {k : Nat} (h : FirstFails s asks k) : k < asks.length := by
  by_contra hk
  have := h.1
  simp [failsAt, List.getElem?_eq_none (Nat.le_of_not_lt hk)] at this

/-- Only accesses that are asked can fail. -/
theorem noneFails_of_lt {s : State} {asks : List Access} (h : ∀ k < asks.length, failsAt s asks k = false) :
    NoneFails s asks := by
  intro k
  by_cases hk : k < asks.length
  · exact h k hk
  · simp [failsAt, List.getElem?_eq_none (Nat.le_of_not_lt hk)]

@[simp] theorem length_readAsks (pos : Word) (n : Nat) : (readAsks pos n).length = n := by simp [readAsks]

@[simp] theorem length_writeAsks (pos : Word) (n : Nat) : (writeAsks pos n).length = n := by simp [writeAsks]

@[simp] theorem askedMore_zero (s : State) : askedMore s 0 = s.env := rfl

@[simp] theorem askedMore_ioFaults (s : State) (n : Nat) : (askedMore s n).ioFaults = s.env.ioFaults := rfl

@[simp] theorem askedMore_tieRank (s : State) (n : Nat) : (askedMore s n).tieRank = s.env.tieRank := rfl

/-- Access number 0 of a list is its head, asked of the environment as it is. -/
theorem failsAt_zero (s : State) (a : Access) (asks : List Access) :
    failsAt s (a :: asks) 0 = ioFails s.env a.1 a.2 := rfl

/-- After one access the others are asked in the same order. -/
theorem failsAt_succ {s t : State} (h : t.env = s.env.countAsk) (a : Access) (asks : List Access) (k : Nat) :
    failsAt s (a :: asks) (k + 1) = failsAt t asks k := by
  have he : askedMore t k = askedMore s (k + 1) := by
    simp [askedMore, h, Env.countAsk, Nat.add_comm, Nat.add_left_comm]
  simp [failsAt, he]

/-- No access fails: not the first, and none of the others after it. -/
theorem noneFails_cons {s t : State} (h : t.env = s.env.countAsk) (a : Access) (asks : List Access) :
    NoneFails s (a :: asks) ↔ ioFails s.env a.1 a.2 = false ∧ NoneFails t asks := by
  constructor
  · exact fun hn => ⟨hn 0, fun k => by rw [← failsAt_succ h a]; exact hn (k + 1)⟩
  · rintro ⟨h0, hn⟩ (_ | k)
    · exact h0
    · rw [failsAt_succ h]; exact hn k

/-- The first access is the one that fails. -/
theorem firstFails_zero (s : State) (a : Access) (asks : List Access) :
    FirstFails s (a :: asks) 0 ↔ ioFails s.env a.1 a.2 = true :=
  ⟨fun h => h.1, fun h => ⟨h, fun j hj => absurd hj (Nat.not_lt_zero j)⟩⟩

/-- A later access is the first that fails: the first does not, and it is the first of the others. -/
theorem firstFails_succ {s t : State} (h : t.env = s.env.countAsk) (a : Access) (asks : List Access) (k : Nat) :
    FirstFails s (a :: asks) (k + 1) ↔ ioFails s.env a.1 a.2 = false ∧ FirstFails t asks k := by
  constructor
  · exact fun hf => ⟨hf.2 0 (Nat.succ_pos k), by rw [← failsAt_succ h a]; exact hf.1,
      fun j hj => by rw [← failsAt_succ h a]; exact hf.2 (j + 1) (Nat.succ_lt_succ hj)⟩
  · rintro ⟨h0, hk, hl⟩
    refine ⟨by rw [failsAt_succ h]; exact hk, ?_⟩
    rintro (_ | j) hj
    · exact h0
    · rw [failsAt_succ h]; exact hl j (Nat.lt_of_succ_lt_succ hj)

/-- The reads of n + 1 bytes: one, then n from the next offset. -/
theorem readAsks_succ (pos : Word) (n : Nat) : readAsks pos (n + 1) = (.inp, pos) :: readAsks (pos + 1#64) n := by
  simp only [readAsks, List.range_succ_eq_map, List.map_cons, List.map_map]
  congr 1
  · simp
  · apply List.map_congr_left
    intro j _
    simp [BitVec.ofNat_add, BitVec.add_assoc, BitVec.add_comm 1#64]

/-- The writes of n + 1 bytes: one, then n from the next offset. -/
theorem writeAsks_succ (pos : Word) (n : Nat) : writeAsks pos (n + 1) = (.out, pos) :: writeAsks (pos + 1#64) n := by
  simp only [writeAsks, List.range_succ_eq_map, List.map_cons, List.map_map]
  congr 1
  · simp
  · apply List.map_congr_left
    intro j _
    simp [BitVec.ofNat_add, BitVec.add_assoc, BitVec.add_comm 1#64]

/-! ### Bytes at an offset -/

theorem Holds.nil {m : Memory} (h : m.wf) (off : Nat) : Holds m m off [] :=
  ⟨h, fun x => by split <;> simp⟩

/-- One byte more is written after those a memory holds. -/
theorem Holds.snoc {m m' : Memory} {off : Nat} {bytes : List Byte} (h : Holds m m' off bytes) (b : Byte)
    (hlt : off + bytes.length < 2 ^ 64) : Holds m (memWrite m' (off + bytes.length) b) off (bytes ++ [b]) := by
  refine ⟨memWrite_wf b h.1 hlt, fun x => ?_⟩
  by_cases hx : x = off + bytes.length
  · subst hx
    rw [memRead_memWrite_self _ _ h.1]
    simp
  · rw [memRead_memWrite_ne b hx, h.2 x]
    split
    · by_cases hb : x - off < bytes.length
      · rw [List.getElem?_append_left hb]
      · rw [List.getElem?_append_right (by omega), List.getElem?_eq_none (by omega),
          List.getElem?_eq_none (by simp; omega)]
    · rfl

/-! ### Walks -/

/-- With no symbol left to spell a walk uses no bit (48_decode_traversal.md R159). -/
@[simp] theorem decodeWalk_zero (t : Tree) (i : NodeIx) (bs : List Bool) :
    decodeWalk t i 0 bs = { syms := [], node := i, used := 0, outcome := .reached } := by
  cases bs <;> rfl

/-- Where a bit is needed and none is left the walk has run out of bits (48_decode_traversal.md R162). -/
theorem decodeWalk_nil (t : Tree) (i : NodeIx) (n : Nat) :
    decodeWalk t i (n + 1) [] = { syms := [], node := i, used := 0, outcome := .ranOut } := rfl

/-- One bit of a walk (48_decode_traversal.md R157, R161). -/
theorem decodeWalk_cons (t : Tree) (i : NodeIx) (n : Nat) (b : Bool) (bs : List Bool) :
    decodeWalk t i (n + 1) (b :: bs) =
      if t.childAt i b = Config.null then { syms := [], node := i, used := 1, outcome := .deadEnd }
      else match (recordAt t (t.childAt i b).toNat).kind with
        | .internal => { decodeWalk t (t.childAt i b) (n + 1) bs with used := (decodeWalk t (t.childAt i b) (n + 1) bs).used + 1 }
        | .leaf =>
          if (recordAt t (t.childAt i b).toNat).filler then { syms := [], node := i, used := 1, outcome := .deadEnd }
          else { decodeWalk t t.root n bs with
                 syms := (recordAt t (t.childAt i b).toNat).sym :: (decodeWalk t t.root n bs).syms
                 used := (decodeWalk t t.root n bs).used + 1 } := rfl

/-- A walk that spells no symbol or has no bit asks nothing. -/
@[simp] theorem decodeAsks_zero (t : Tree) (i : NodeIx) (left : Nat) (p q : Word) (bs : List Bool) :
    decodeAsks t i 0 left p q bs = [] := by
  cases bs <;> rfl

@[simp] theorem decodeAsks_nil (t : Tree) (i : NodeIx) (n left : Nat) (p q : Word) : decodeAsks t i n left p q [] = [] := by
  cases n <;> rfl

/-- A walk uses no more bits than are there and spells no more symbols than are asked for. -/
theorem decodeWalk_bounds (t : Tree) (bs : List Bool) :
    ∀ i n, (decodeWalk t i n bs).used ≤ bs.length ∧ (decodeWalk t i n bs).syms.length ≤ n := by
  induction bs with
  | nil => intro i n; cases n <;> simp [decodeWalk_nil]
  | cons b bs ih =>
    rintro i (_ | n)
    · simp
    · rw [decodeWalk_cons]
      have hi := ih (t.childAt i b) (n + 1)
      have hr := ih t.root n
      split
      · simp
      · split
        · exact ⟨by simpa using hi.1, hi.2⟩
        · split
          · simp
          · exact ⟨by simpa using hr.1, by simpa using hr.2⟩

/-- A walk that reaches its end has spelled every symbol asked for. -/
theorem decodeWalk_reached (t : Tree) (bs : List Bool) :
    ∀ i n, (decodeWalk t i n bs).outcome = .reached → (decodeWalk t i n bs).syms.length = n := by
  induction bs with
  | nil => rintro i (_ | n) h <;> simp_all [decodeWalk_nil]
  | cons b bs ih =>
    rintro i (_ | n) h
    · simp
    · rw [decodeWalk_cons] at h ⊢
      split at h
      · cases h
      · next hn =>
        rw [if_neg hn]
        split at h
        · exact ih _ _ h
        · split at h
          · cases h
          · next hf => simpa [hf] using ih _ _ h

/-! ### The accesses of COMPRESS -/

@[simp] theorem readCount_append (as bs : List Access) : readCount (as ++ bs) = readCount as + readCount bs := by
  simp [readCount]

@[simp] theorem readCount_readAsks (pos : Word) (n : Nat) : readCount (readAsks pos n) = n := by
  simp [readCount, readAsks, List.countP_map, Function.comp_def]

@[simp] theorem readCount_writeAsks (pos : Word) (n : Nat) : readCount (writeAsks pos n) = 0 := by
  simp [readCount, writeAsks, List.countP_map, Function.comp_def]

/-- The accesses of ENCODE_STREAM hold one read for each byte. -/
theorem readCount_encodeAsks (ct : Vector Code 256) (bs : List Byte) :
    ∀ n p q, readCount (encodeAsks ct n bs p q) = bs.length := by
  induction bs with
  | nil => intro n p q; rfl
  | cons v vs ih =>
    intro n p q
    have h : ∀ as : List Access, readCount ((.inp, p) :: as) = readCount as + 1 := fun as => by simp [readCount]
    simp only [encodeAsks, h, List.cons_append, readCount_append, readCount_writeAsks, ih, List.length_cons, Nat.zero_add]

/-- The accesses of COMPRESS, step after step. -/
theorem compressAsks_eq (ct : Vector Code 256) (bs : List Byte) :
    compressAsks ct bs = readAsks 0#64 bs.length ++ writeAsks 0#64 (12 + 5 * (distinctSyms bs).length) ++
      encodeAsks ct 0 bs 0#64 (BitVec.ofNat 64 (12 + 5 * (distinctSyms bs).length)) ++
      (if (payloadBits ct bs).length % 8 = 0 then [] else
        [(.out, BitVec.ofNat 64 (12 + 5 * (distinctSyms bs).length + (payloadBits ct bs).length / 8))]) ++
      [(.out, Config.padOffset)] := by
  simp only [compressAsks, compressSteps, List.map_append, List.map_map]
  congr 1
  congr 1
  · congr 1
    · congr 1 <;> simp [Function.comp_def]
    · simp [Function.comp_def]
  · split <;> rfl

/-- COMPRESS reads every byte of its input twice, in the scan and in the encoding (47_compress_sequencer.md R141). -/
theorem readCount_compressAsks (ct : Vector Code 256) (bs : List Byte) :
    readCount (compressAsks ct bs) = 2 * bs.length := by
  rw [compressAsks_eq]
  split <;> simp only [readCount_append, readCount_readAsks, readCount_writeAsks, readCount_encodeAsks] <;>
    simp [readCount] <;> omega

/-- The bits of a payload hang on the codes of its bytes alone. -/
theorem payloadBits_congr {ct ct' : Vector Code 256} {bs : List Byte} (h : ∀ v ∈ bs, ctAt ct v = ctAt ct' v) :
    payloadBits ct bs = payloadBits ct' bs :=
  List.flatMap_congr fun v hv => by rw [h v hv]

/-- The accesses of ENCODE_STREAM hang on the codes of its bytes alone. -/
theorem encodeAsks_congr {ct ct' : Vector Code 256} {bs : List Byte} (h : ∀ v ∈ bs, ctAt ct v = ctAt ct' v) :
    ∀ n p q, encodeAsks ct n bs p q = encodeAsks ct' n bs p q := by
  induction bs with
  | nil => intro n p q; rfl
  | cons v vs ih =>
    intro n p q
    simp only [encodeAsks, h v (List.mem_cons_self ..), ih fun x hx => h x (List.mem_cons_of_mem _ hx)]

/-- The accesses of COMPRESS and their steps hang on the codes of its bytes alone. -/
theorem compressSteps_congr {ct ct' : Vector Code 256} {bs : List Byte} (h : ∀ v ∈ bs, ctAt ct v = ctAt ct' v) :
    compressSteps ct bs = compressSteps ct' bs := by
  simp only [compressSteps, payloadBits_congr h, encodeAsks_congr h]

end Sys2Proof.Machine
end

