-- ==== Sys2Proof/Tests/Slice0.lean ====
section
/-! SUPPORT. The model's own tests: words of the opcode map, one step of each command with the values of 95_test_vectors.md
and of the rules' examples, and for each statement with hypotheses a state that meets them. -/
set_option Elab.async false

namespace Sys2Proof.Machine

/-! ### Helpers -/

/-- The command answers a next state of which p holds. -/
def after (i : Instr) (s : State) (p : State → Bool) : Bool :=
  match exec i s with
  | .next t => p t
  | _ => false

theorem next_of_after {i : Instr} {s : State} {p : State → Bool} (h : after i s p = true) :
    ∃ t, exec i s = .next t ∧ p t = true := by
  unfold after at h
  split at h
  · next t ht => exact ⟨t, ht, h⟩
  · cases h

/-- The state after reset with these bytes in IN. -/
def withIn (bs : List Byte) : State :=
  { State.reset with
    src := { mem := (bs.zipIdx.filter fun c => c.1 != 0#8).map fun c => (c.2, c.1)
             len := BitVec.ofNat 64 bs.length, pos := 0#64 } }

/-- The state after reset with these operands. -/
def withAB (a : Pattern) (b : Word) : State := { State.reset with a := a, b := b }

/-- A frequency table. -/
def table (l : List (Byte × Count)) : Vector FtEntry 256 :=
  l.foldl (fun ft e => ftPut ft e.1 { present := true, count := e.2 }) ftEmpty

/-- The input "aaabbc" (95_test_vectors.md V1). -/
def aaabbc : List Byte := [0x61#8, 0x61#8, 0x61#8, 0x62#8, 0x62#8, 0x63#8]

/-- The table of "aaabbc" (42_tree_builder.md R104). -/
def tableV1 : Vector FtEntry 256 := table [(0x61#8, 3#32), (0x62#8, 2#32), (0x63#8, 1#32)]

/-- The header of "aaabbc" with paddingBits 7 (46_container_format.md R131). -/
def headerV1 : List Byte :=
  [0x48#8, 0x46#8, 0#8, 0#8, 0#8, 0#8, 0#8, 0#8, 0#8, 6#8, 3#8, 7#8,
   0x61#8, 0#8, 0#8, 0#8, 3#8, 0x62#8, 0#8, 0#8, 0#8, 2#8, 0x63#8, 0#8, 0#8, 0#8, 1#8]

/-- The container of "aaabbc" (95_test_vectors.md V1). -/
def containerV1 : List Byte := headerV1 ++ [0x1F#8, 0x00#8]

/-- The entries of V1's header. -/
def entriesV1 : List HdrEntry :=
  [{ sym := 0x61#8, freq := 3#32 }, { sym := 0x62#8, freq := 2#32 }, { sym := 0x63#8, freq := 1#32 }]

/-- The tree of "aaabbc", record by record (42_tree_builder.md R104). -/
def treeV1 : Tree :=
  { node := [leafNode 0x61#8 3#32, leafNode 0x62#8 2#32, leafNode 0x63#8 1#32,
      internalNode 3#64 2#9 1#9, internalNode 6#64 0#9 3#9].zipIdx.foldl
        (fun v c => nodePut v (BitVec.ofNat 9 c.2) c.1) State.reset.tree.node
    cnt := 5#9, root := 4#9, valid := true }

/-- The codes of "aaabbc" (43_code_generator.md R110). -/
def codesV1 : Codes :=
  { ct := [(0x61#8, 1#8, 0#256), (0x62#8, 2#8, 3#256), (0x63#8, 2#8, 1#256)].foldl
      (fun ct c => ctPut ct c.1 { valid := true, len := c.2.1, bits := c.2.2 }) ctEmpty
    valid := true }

/-- The single-symbol tree of 'a' (42_tree_builder.md R96). -/
def treeOfA : Tree :=
  { node := [leafNode 0x61#8 100#32, fillerNode, internalNode 100#64 0#9 1#9].zipIdx.foldl
        (fun v c => nodePut v (BitVec.ofNat 9 c.2) c.1) State.reset.tree.node
    cnt := 3#9, root := 2#9, valid := true }

/-- A state about to decode: the tree and codes of "aaabbc", the traversal on the root, these bytes in IN. -/
def decoding (bs : List Byte) : State :=
  { withIn bs with
    tree := treeV1, codes := codesV1, dec := { cur := 4#9, count := 0#64, valid := true }
    hdr := { State.reset.hdr with size := 6#64, num := 3#8, pad := 7#8, magic := 0x4846#16, valid := true } }

/-- A queue with a tie (41_priority_queue.md R89). -/
def tieQueue : State :=
  { State.reset with
    queue := { entries := [{ value := 5#16, prio := 4#64, seq := 0 }, { value := 6#16, prio := 4#64, seq := 1 }], seq := 2 } }

/-- The environment fails the access to this byte. -/
def failing (s : State) (sp : Space) (off : Word) : State :=
  { s with env := { s.env with ioFaults := [{ space := sp, offset := off, access := none }] } }

/-! ### Well-formedness: an ill-formed line for each check -/

theorem test_line_a_too_wide : ¬(Line.mk .ftSet 256 0).AFits := by decide
theorem test_line_b_too_wide : ¬(Line.mk .ftSet 0 (2 ^ 32)).BFits := by decide
theorem test_line_operand_of_n : ¬(Line.mk .tbBuild 1 0).WellFormed := by decide
theorem test_line_b_of_a : ¬(Line.mk .patchPadding 7 1).WellFormed := by decide
theorem test_line_fits : (Line.mk .bwWriteBits (2 ^ 256 - 1) 257).WellFormed := by decide

/-! ### Every word of the opcode map (30_encoding.md R70, bit by bit from its high and low nibble) -/

theorem test_decode_ft_clear : decode 0b00000001#8 = .ok .ftClear := rfl
theorem test_decode_ft_set : decode 0b00000010#8 = .ok .ftSet := rfl
theorem test_decode_freq_scan : decode 0b00000011#8 = .ok .freqScan := rfl
theorem test_decode_src_open : decode 0b00001000#8 = .ok .srcOpen := rfl
theorem test_decode_sink_open : decode 0b00001001#8 = .ok .sinkOpen := rfl
theorem test_decode_pq_init : decode 0b00010000#8 = .ok .pqInit := rfl
theorem test_decode_pq_insert : decode 0b00010001#8 = .ok .pqInsert := rfl
theorem test_decode_pq_extract_min : decode 0b00010010#8 = .ok .pqExtractMin := rfl
theorem test_decode_pq_peek : decode 0b00010011#8 = .ok .pqPeek := rfl
theorem test_decode_pq_size : decode 0b00010100#8 = .ok .pqSize := rfl
theorem test_decode_pq_is_empty : decode 0b00010101#8 = .ok .pqIsEmpty := rfl
theorem test_decode_tb_build : decode 0b00100000#8 = .ok .tbBuild := rfl
theorem test_decode_cg_generate : decode 0b00110000#8 = .ok .cgGenerate := rfl
theorem test_decode_cg_verify : decode 0b00110001#8 = .ok .cgVerify := rfl
theorem test_decode_bw_init : decode 0b01000000#8 = .ok .bwInit := rfl
theorem test_decode_bw_write_bit : decode 0b01000001#8 = .ok .bwWriteBit := rfl
theorem test_decode_bw_write_bits : decode 0b01000010#8 = .ok .bwWriteBits := rfl
theorem test_decode_bw_close : decode 0b01000011#8 = .ok .bwClose := rfl
theorem test_decode_br_init : decode 0b01010000#8 = .ok .brInit := rfl
theorem test_decode_br_read_bit : decode 0b01010001#8 = .ok .brReadBit := rfl
theorem test_decode_cf_write_header : decode 0b01100000#8 = .ok .cfWriteHeader := rfl
theorem test_decode_cf_read_header : decode 0b01100001#8 = .ok .cfReadHeader := rfl
theorem test_decode_compress : decode 0b01110000#8 = .ok .compress := rfl
theorem test_decode_encode_stream : decode 0b01110001#8 = .ok .encodeStream := rfl
theorem test_decode_patch_padding : decode 0b01110010#8 = .ok .patchPadding := rfl
theorem test_decode_decompress : decode 0b10000000#8 = .ok .decompress := rfl
theorem test_decode_dec_init : decode 0b10000001#8 = .ok .decInit := rfl
theorem test_decode_dec_step : decode 0b10000010#8 = .ok .decStep := rfl
theorem test_decode_dec_stream : decode 0b10000011#8 = .ok .decStream := rfl
theorem test_decode_zero : decode 0x00#8 = .error (.illegalCommand 0x00#8) := rfl
theorem test_decode_ff : decode 0xFF#8 = .error (.illegalCommand 0xFF#8) := rfl
-- 30_encoding.md R73
theorem test_line_ft_set : encodeLine (Line.mk .ftSet 0x61 3) = .triple 0x02#8 0x61#256 3#64 := rfl
-- 95_test_vectors.md Part 2: the assembler form of an operand wider than its slice zeroes the other bits
theorem test_line_ft_set_wide : encodeLine (Line.mk .ftSet 0x161 0x100000003) = .triple 0x02#8 0x61#256 3#64 := rfl
theorem test_line_patch_padding : encodeLine (Line.mk .patchPadding 7 0) = .triple 0x72#8 7#256 0#64 := rfl
theorem test_line_tb_build : encodeLine (Line.mk .tbBuild 0 0) = .opcode 0x20#8 := rfl
theorem test_line_n_writes_no_operand : lineActions (Line.mk .tbBuild 0 0) = [.writeCmd 0x20#8] := rfl
theorem test_line_opcode_of_ab : decodeLine (.opcode 0x02#8) = .error (.missingOperands 0x02#8) := rfl
theorem test_line_triple_of_n : decodeLine (.triple 0x20#8 0#256 0#64) = .error (.operandsNotTaken 0x20#8) := rfl

/-! ### One step of each command, with the spec's own values -/

-- 95_test_vectors.md P5 and 40_frequency_table.md R81: bits above the slices are ignored
theorem test_ft_set : after .ftSet (withAB 0xF61#256 0x100000003#64) (fun t =>
    ftAt t.ft 0x61#8 == { present := true, count := 3#32 } && !t.tree.valid && t.status == 0#8) = true := by
  decide +kernel
-- 40_frequency_table.md R80
theorem test_ft_clear : after .ftClear { State.reset with ft := tableV1 } (fun t =>
    ftAt t.ft 0x61#8 == FtEntry.empty && ftAt t.ft 0x63#8 == FtEntry.empty) = true := by
  decide +kernel
-- 40_frequency_table.md R82
theorem test_freq_scan : after .freqScan (withIn aaabbc) (fun t =>
    [0x60#8, 0x61#8, 0x62#8, 0x63#8].map (fun x => (ftAt t.ft x).count) == [0#32, 3#32, 2#32, 1#32] &&
    t.r0 == 6#64 && t.src.pos == 6#64) = true := by decide +kernel
-- 20_memory.md R51, R53
theorem test_src_open : after .srcOpen { State.reset with src := { mem := [], len := 40#64, pos := 29#64 } } (fun t =>
    t.src == { mem := [], len := 40#64, pos := 0#64 }) = true := by decide +kernel
theorem test_sink_open : after .sinkOpen { State.reset with sink := { mem := [(0, 1#8)], len := 29#64, pos := 29#64 } }
    (fun t => t.sink == { mem := [(0, 1#8)], len := 0#64, pos := 0#64 }) = true := by decide +kernel
-- 41_priority_queue.md R87 to R92
theorem test_pq_init : after .pqInit tieQueue (fun t => t.queue == { entries := [], seq := 0 }) = true := by
  decide +kernel
theorem test_pq_insert : after .pqInsert (withAB 0x10007#256 3#64) (fun t =>
    t.queue == { entries := [{ value := 7#16, prio := 3#64, seq := 0 }], seq := 1 }) = true := by decide +kernel
theorem test_pq_extract_min_tie : after .pqExtractMin tieQueue (fun t =>
    t.r0 == 5#64 && t.r1 == 4#64 && t.queue == { entries := [{ value := 6#16, prio := 4#64, seq := 1 }], seq := 2 }) = true := by
  decide +kernel
theorem test_pq_extract_min_empty : after .pqExtractMin State.reset (fun t => t.status == 4#8) = true := by decide +kernel
theorem test_pq_peek : after .pqPeek tieQueue (fun t => t.r0 == 5#64 && t.queue == tieQueue.queue) = true := by
  decide +kernel
theorem test_pq_size : after .pqSize tieQueue (fun t => t.r0 == 2#64) = true := by decide +kernel
theorem test_pq_is_empty : after .pqIsEmpty State.reset (fun t => t.r0 == 1#64) = true := by decide +kernel
-- 42_tree_builder.md R104 and R96
theorem test_tb_build : after .tbBuild { withIn containerV1 with ft := tableOf entriesV1 } (fun t =>
    decodeWalk t.tree t.tree.root 6 (bytesBits [0x1F#8, 0x00#8]) ==
      { syms := aaabbc, node := 4#9, used := 9, outcome := .reached } &&
    t.tree.records == treeV1.records && t.tree.root == 4#9 && t.tree.valid && t.queue == { entries := [], seq := 5 }) = true := by decide +kernel
theorem test_tb_build_single : after .tbBuild { State.reset with ft := table [(0x61#8, 100#32)] } (fun t =>
    t.tree.records == treeOfA.records && t.tree.root == 2#9 && t.tree.valid && t.queue.seq == 0) = true := by decide +kernel
-- 43_code_generator.md R110; 95_test_vectors.md P5
theorem test_cg_generate : after .cgGenerate { State.reset with tree := treeV1 } (fun t =>
    t.codes.valid && !(ctAt t.codes.ct 0#8).valid &&
    [0x61#8, 0x62#8, 0x63#8].all fun x => ctAt t.codes.ct x == ctAt codesV1.ct x) = true := by decide +kernel
theorem test_cg_generate_single : after .cgGenerate { State.reset with tree := treeOfA } (fun t =>
    ctAt t.codes.ct 0x61#8 == { valid := true, len := 1#8, bits := 0#256 } && !(ctAt t.codes.ct 0#8).valid) = true := by
  decide +kernel
-- 43_code_generator.md R108: two equal codes are a violation
theorem test_cg_verify : after .cgVerify { State.reset with codes := codesV1 } (fun t => t.status == 0#8) = true := by
  decide +kernel
theorem test_cg_verify_equal_codes : after .cgVerify { State.reset with
    codes := { codesV1 with ct := ctPut codesV1.ct 0#8 { valid := true, len := 2#8, bits := 3#256 } } }
    (fun t => t.status == 0x84#8) = true := by decide +kernel
-- 44_bit_writer.md R115 to R118; 95_test_vectors.md T44-8, P1
theorem test_bw_init : after .bwInit { State.reset with bw := { cur := 0x80#8, nbits := 1#3, total := 9 } } (fun t =>
    t.bw == { cur := 0#8, nbits := 0#3, total := 0 }) = true := by decide +kernel
theorem test_bw_write_bit : after .bwWriteBit (withAB 1#256 0#64) (fun t =>
    t.bw == { cur := 0x80#8, nbits := 1#3, total := 1 } && t.sink.len == 0#64) = true := by decide +kernel
theorem test_bw_write_bit_slice : after .bwWriteBit (withAB 0xFE#256 0#64) (fun t =>
    t.bw == { cur := 0#8, nbits := 1#3, total := 1 }) = true := by decide +kernel
theorem test_bw_write_bits : after .bwWriteBits (withAB 0b101#256 3#64) (fun t =>
    t.bw == { cur := 0xA0#8, nbits := 3#3, total := 3 }) = true := by decide +kernel
theorem test_bw_write_bits_256 : after .bwWriteBits (withAB (BitVec.allOnes 256) 256#64) (fun t =>
    outBytes t == List.replicate 32 0xFF#8 && t.bw.nbits == 0#3) = true := by decide +kernel
theorem test_bw_close : after .bwClose { State.reset with bw := { cur := 0xA0#8, nbits := 3#3, total := 3 } } (fun t =>
    t.r0 == 5#64 && outBytes t == [0xA0#8] && t.bw == { cur := 0#8, nbits := 0#3, total := 3 }) = true := by decide +kernel
-- 45_bit_reader.md R125, R126; 95_test_vectors.md T45-1, T45-2
theorem test_br_init : after .brInit { State.reset with br := { cur := 0xA5#8, left := 3#4, finished := true } } (fun t =>
    t.br == { cur := 0#8, left := 0#4, finished := false }) = true := by decide +kernel
theorem test_br_read_bit : after .brReadBit (withIn [0xA5#8]) (fun t =>
    t.r0 == 1#64 && t.br == { cur := 0xA5#8, left := 7#4, finished := false } && t.src.pos == 1#64) = true := by
  decide +kernel
theorem test_br_read_bit_end : after .brReadBit State.reset (fun t =>
    t.status == 0x0D#8 && t.br.finished && t.r0 == 0#64) = true := by decide +kernel
-- 46_container_format.md R131; 95_test_vectors.md T46-6, T46-7
theorem test_cf_write_header : after .cfWriteHeader { withAB 7#256 6#64 with ft := tableV1 } (fun t =>
    outBytes t == headerV1 && t.status == 0#8) = true := by decide +kernel
theorem test_cf_read_header_magic : after .cfReadHeader (withIn [0x58#8, 0x46#8]) (fun t =>
    t.status == 6#8 && t.src.pos == 2#64) = true := by decide +kernel
theorem test_cf_read_header_twice : after .cfReadHeader (withIn [0x48#8, 0x46#8, 0#8, 0#8, 0#8, 0#8, 0#8, 0#8, 0#8, 2#8,
      3#8, 0#8, 0x61#8, 0#8, 0#8, 0#8, 9#8, 0x62#8, 0#8, 0#8, 0#8, 2#8, 0x61#8, 0#8, 0#8, 0#8, 1#8]) (fun t =>
    t.status == 0#8 && t.hdr.num == 3#8 && (ftAt t.ft 0x62#8).count == 2#32 && (ftAt t.ft 0x61#8).count == 1#32 && t.src.pos == 27#64 &&
    t.hdr.ent[0]? == some { sym := 0x61#8, freq := 9#32 }) = true := by decide +kernel
-- 95_test_vectors.md V1, T47-1, T47-5, T47-6
theorem test_compress : after .compress (withIn aaabbc) (fun t =>
    outBytes t == containerV1 && t.bw.total == 9 && t.status == 0#8) = true := by decide +kernel
theorem test_compress_empty : after .compress State.reset (fun t => t.status == 2#8 && t.seqStep == 2#4) = true := by
  decide +kernel
theorem test_encode_stream : after .encodeStream { withIn aaabbc with codes := codesV1 } (fun t =>
    outBytes t == [0x1F#8] && t.bw == { cur := 0#8, nbits := 1#3, total := 9 } && t.src.pos == 6#64) = true := by
  decide +kernel
theorem test_encode_stream_missing : after .encodeStream { withIn [0x61#8, 0x62#8, 0x64#8] with codes := codesV1 } (fun t =>
    t.status == 0x82#8 && t.src.pos == 3#64 && t.bw == { cur := 0x60#8, nbits := 3#3, total := 3 }) = true := by
  decide +kernel
theorem test_patch_padding : after .patchPadding { withAB 7#256 0#64 with
      sink := { mem := [(0, 0x48#8)], len := 12#64, pos := 12#64 } } (fun t =>
    t.sink == { mem := [(0, 0x48#8), (11, 7#8)], len := 12#64, pos := 12#64 }) = true := by decide +kernel
theorem test_patch_padding_short : after .patchPadding { withAB 7#256 0#64 with
      sink := { mem := [], len := 11#64, pos := 11#64 } } (fun t => t.status == 0x85#8) = true := by decide +kernel
-- 95_test_vectors.md T48-1, T48-9; 48_decode_traversal.md R157, R158
theorem test_decompress : after .decompress (withIn containerV1) (fun t =>
    outBytes t == aaabbc && t.src.pos == 29#64 && t.dec == { cur := 4#9, count := 6#64, valid := true } &&
    t.br.left == 7#4 && t.status == 0#8 && t.seqStep == 0#4) = true := by decide +kernel
-- 48_decode_traversal.md R162: bits that run out, size 0
theorem test_decompress_short : after .decompress (withIn (headerV1 ++ [0x1F#8])) (fun t =>
    t.status == 8#8 && t.seqStep == 6#4 && outBytes t == [0x61#8, 0x61#8, 0x61#8, 0x62#8, 0x62#8]) = true := by
  decide +kernel
theorem test_dec_init : after .decInit { State.reset with tree := treeV1 } (fun t =>
    t.dec == { cur := 4#9, count := 0#64, valid := true }) = true := by decide +kernel
theorem test_dec_step_symbol : after .decStep (decoding [0x1F#8, 0x00#8]) (fun t =>
    t.r0 == 1#64 && t.r1 == 0x61#64 && outBytes t == [0x61#8] && t.dec.cur == 4#9 && t.dec.count == 1#64) = true := by
  decide +kernel
theorem test_dec_step_filler : after .decStep { decoding [0x80#8] with
      tree := treeOfA, dec := { cur := 2#9, count := 0#64, valid := true } } (fun t =>
    t.status == 0x0A#8 && t.sink.len == 0#64 && t.br.left == 7#4) = true := by decide +kernel
theorem test_dec_stream : after .decStream (decoding [0x1F#8, 0x00#8]) (fun t =>
    outBytes t == aaabbc && t.r0 == 0#64 && t.dec.count == 6#64) = true := by decide +kernel
-- 95_test_vectors.md T60-1, T49-4
theorem test_illegal_command : (match step (State.reset.withFetchWord 8 0x84) with
    | .next t => t.cmd == 0x84#8 && t.status == 0x80#8 && t.seqStep == 0#4 && t.host == []
    | _ => false) = true := by decide +kernel
theorem test_verify : verify aaabbc [0x61#8, 0x61#8, 0x61#8, 0x62#8, 0x62#8, 0x62#8] = .contentMismatch 5 := by decide

/-! ### For each statement with hypotheses, a state and operands that meet them -/

/-- A state that is not the reset state and meets the invariant: a tree, its codes, a traversal on it, a queue, bytes in IN
and OUT, a host that issues FT_CLEAR next. -/
def busy : State :=
  { decoding [0x1F#8, 0x00#8] with
    queue := tieQueue.queue, sink := { mem := [(0, 0x61#8)], len := 1#64, pos := 1#64 }
    status := 0x85#8, host := [.writeCmd 0x01#8] }

theorem records_treeV1 : treeV1.records = [leafNode 0x61#8 3#32, leafNode 0x62#8 2#32, leafNode 0x63#8 1#32,
    internalNode 3#64 2#9 1#9, internalNode 6#64 0#9 3#9] := by decide +kernel

/-- A fact about every record of treeV1 is a fact about five records. -/
theorem recordAt_treeV1 (i : Nat) (h : i < 5) : recordAt treeV1 i = ([leafNode 0x61#8 3#32, leafNode 0x62#8 2#32,
    leafNode 0x63#8 1#32, internalNode 3#64 2#9 1#9, internalNode 6#64 0#9 3#9][i]?).getD Node.blank := by
  rw [← records_treeV1, Tree.records, show treeV1.cnt.toNat = 5 from rfl]
  simp [h]

theorem treeInv_treeV1 : TreeInv treeV1 where
  rootLast := by decide
  rootInternal := by rw [recordAt_treeV1 _ (by decide)]; decide
  ownedOnce := by unfold Tree.childRefs; rw [records_treeV1]; decide
  childrenBelow := by
    intro i hi
    rw [recordAt_treeV1 i hi]
    revert i
    decide
  freqSum := by decide +kernel
  leafEnds := by
    intro i hi
    rw [recordAt_treeV1 i hi]
    revert i
    decide
  symsOnce := by unfold Tree.realLeaves; rw [records_treeV1]; decide
  fillerSingle := .inl (by
    intro i hi
    rw [recordAt_treeV1 i hi]
    revert i
    decide)

theorem inv_busy : Inv busy where
  inWf := by decide +kernel
  outWf := by decide +kernel
  ftCanonical := fun x _ => by
    show (ftAt ftEmpty x).count = 0#32
    rw [ftAt_ftEmpty]; rfl
  treeInv := fun _ => treeInv_treeV1
  codesChecked := fun _ => ⟨by decide +kernel, rfl⟩
  decOnNode := fun _ => ⟨rfl, by decide +kernel, by decide +kernel⟩
  outCursor := ⟨by decide +kernel, fun _ => rfl⟩
  writerClean := fun _ j _ => by
    show (0#8).getLsbD j = false
    simp
  brLeft := by decide +kernel
  queueSeqs := by decide +kernel
  statusLegal := by decide +kernel
  seqLegal := by decide +kernel

/-- The bytes of an IN where nothing is listed are all the blank byte. -/
theorem memBytes_nil (a n : Nat) : memBytes [] a n = List.replicate n Config.blankByte := by
  induction n generalizing a with
  | zero => rfl
  | succ n ih => rw [memBytes, ih, List.replicate_succ]; rfl

/-- No value occurs 2^32 times in a short sequence. -/
theorem count_lt_of_short {l : List Byte} (h : l.length < 2 ^ 32) (v : Byte) : l.count v < 2 ^ 32 :=
  Nat.lt_of_le_of_lt List.count_le_length h

theorem witness_DecodeEncodeLine : (Line.mk .ftSet 255 (2 ^ 32 - 1)).WellFormed ∧ (Line.mk .cgVerify 0 0).WellFormed ∧
    decodeLine (.opcode 0x31#8) = .ok (Line.mk .cgVerify 0 0) ∧
    decodeLine (.triple 0x02#8 0xFFF#256 0x1FFFFFFFF#64) = .ok (Line.mk .ftSet 255 (2 ^ 32 - 1)) :=
  ⟨by decide, by decide, rfl, rfl⟩

theorem witness_IllegalCommandWord : (State.reset.withFetchWord 8 0xFF).host = [.writeCmd 0xFF#8] ∧
    ∀ i, encode i ≠ 0xFF#8 := ⟨rfl, fun i => by cases i <;> decide⟩

theorem witness_StepRunsDecodedCommand : (State.reset.withFetchWord 8 0x83).host = [.writeCmd 0x83#8] ∧
    decode 0x83#8 = .ok .decStream ∧
    { busy with host := lineActions (Line.mk .ftSet 0x161 3) }.host = [.writeA 0x61#256, .writeB 3#64, .writeCmd 0x02#8] ∧
    { busy with host := lineActions (Line.mk .decStream 0 0) ++ [HostAction.reset] }.host = [.writeCmd 0x83#8, HostAction.reset] :=
  ⟨rfl, rfl, rfl, rfl⟩

theorem witness_HostWrites :
    { State.reset with host := [.writeA 1#256] }.host = [.writeA 1#256] ∧
    { State.reset with host := [.writeB 1#64] }.host = [.writeB 1#64] ∧
    { State.reset with host := [.writeInLen 1#64] }.host = [.writeInLen 1#64] ∧
    { withIn aaabbc with host := [.writeIn (BitVec.allOnes 64) 0#8] }.host = [.writeIn (BitVec.allOnes 64) 0#8] ∧
    (withIn aaabbc).src.mem.wf ∧ State.reset.host = [] := ⟨rfl, rfl, rfl, rfl, by decide +kernel, rfl⟩

theorem witness_ResetValues : { busy with host := [.reset] }.host = [.reset] := rfl

/-- FirstFails, as a condition that can be evaluated. -/
theorem firstFails_of {s : State} {asks : List Access} {k : Nat} (h : failsAt s asks k = true)
    (h' : ∀ j ∈ List.range k, failsAt s asks j = false) : FirstFails s asks k :=
  ⟨h, fun j hj => h' j (List.mem_range.2 hj)⟩

theorem witness_FreqScanCounts :
    (NoneFails (withIn aaabbc) (readAsks 0#64 6) ∧ bytesLeft (withIn aaabbc) = 6 ∧
      ∀ v, (unread (withIn aaabbc)).count v < 2 ^ 32) ∧
    (FirstFails (failing (withIn aaabbc) .inp 0#64) (readAsks 0#64 6) 0 ∧
      FirstFails (failing (withIn aaabbc) .inp 5#64) (readAsks 0#64 6) 5) :=
  ⟨⟨noneFails_of_nil rfl _, by decide +kernel, count_lt_of_short (by decide +kernel)⟩,
    firstFails_of (by decide +kernel) (by decide +kernel), firstFails_of (by decide +kernel) (by decide +kernel)⟩

/-- 2^32 bytes that nobody has written, all equal (log 5). -/
def longInput : State := { State.reset with src := { mem := [], len := 0x100000000#64, pos := 0#64 } }

theorem unread_longInput : unread longInput = List.replicate (2 ^ 32) Config.blankByte := by
  have hb : bytesLeft longInput = 2 ^ 32 := by decide
  rw [← hb]
  exact memBytes_nil _ _

theorem overflowsAfter_longInput :
    OverflowsAfter (unread longInput) (List.replicate (2 ^ 32 - 1) Config.blankByte) := by
  refine ⟨Config.blankByte, [], ?_, List.count_replicate_self, fun x => ?_⟩
  · rw [unread_longInput]
    exact List.replicate_succ' (n := 2 ^ 32 - 1)
  · rw [List.count_replicate]
    split <;> omega

theorem witness_FreqScanOverflow : (∃ done, OverflowsAfter (unread longInput) done ∧
      NoneFails longInput (readAsks longInput.src.pos (done.length + 1))) ∧
    ∃ v, 2 ^ 32 ≤ (unread longInput).count v :=
  ⟨⟨_, overflowsAfter_longInput, noneFails_of_nil rfl _⟩, Config.blankByte, by
    rw [unread_longInput, List.count_replicate_self]⟩

theorem witness_OpenAndInit : busy.tree.valid = true ∧ State.reset.tree.valid = false := ⟨rfl, rfl⟩

theorem witness_BigEndianBytes : (be64Bytes 0x0102030405060708#64)[7]? = some 8#8 ∧
    (be32Bytes 0x01020304#32)[3]? = some 4#8 := ⟨by decide, by decide⟩

theorem witness_PqSizeIsEmpty : tieQueue.queue.entries.length < 2 ^ 64 := by decide

theorem witness_PqGivesMinimum : tieQueue.queue.entries ≠ [] ∧ State.reset.queue.entries = [] := ⟨by decide, rfl⟩

theorem witness_TieBreakOrder : let e := State.reset.env
    pqBefore e ⟨0#16, 1#64, 0⟩ ⟨0#16, 1#64, 1⟩ = true ∧ pqBefore e ⟨0#16, 1#64, 1⟩ ⟨0#16, 2#64, 0⟩ = true ∧
    (⟨0#16, 1#64, 0⟩ : PqEntry) ≠ ⟨1#16, 1#64, 0⟩ ∧ (1#64 < 2#64) ∧ e.tieRank = [] := by decide

theorem witness_TbBuildEmptyTable : presentSyms State.reset.ft = [] := presentSyms_ftEmpty

theorem witness_TbBuildSingle : presentSyms (table [(0xFF#8, 0#32)]) = [0xFF#8] := by decide +kernel

-- 42_tree_builder.md R104: record 3 of "aaabbc" combines 'c' (left) and 'b', record 4 'a' (left) and record 3
theorem test_unowned_treeV1 : ∀ i, Unowned treeV1.node 4 i → i = 0 ∨ i = 3 := by
  intro i h
  have hi : i = 0 ∨ i = 1 ∨ i = 2 ∨ i = 3 := by have := h.1; omega
  have h3 := h.2 3 (internalNode 3#64 2#9 1#9) (by decide) (by decide +kernel)
  rcases hi with rfl | rfl | rfl | rfl
  · exact .inl rfl
  · exact absurd rfl h3.2
  · exact absurd rfl h3.1
  · exact .inr rfl

theorem witness_TbBuildGeneral : 2 ≤ ftN (table [(0#8, 0#32), (0xFF#8, 0#32)]) := by decide +kernel

theorem witness_TbBuildTreeInvariant : presentSyms tableV1 ≠ [] :=
  List.ne_nil_of_mem (mem_presentSyms.2 (show (ftAt tableV1 0x61#8).present = true by decide +kernel))

theorem witness_TbCombineSides : 2 ≤ tieQueue.queue.entries.length ∧
    { tieQueue with tree := { tieQueue.tree with cnt := 510#9 } }.tree.cnt.toNat < 511 := ⟨by decide, by decide⟩

theorem witness_TbBuildDeterministic : let s := { State.reset with ft := tableV1 }
    let u := { busy with ft := tableV1 }
    s.ft = u.ft ∧ s.env.tieRank = u.env.tieRank ∧ presentSyms s.ft ≠ [] :=
  ⟨rfl, rfl, witness_TbBuildTreeInvariant⟩

theorem witness_CgGeneratePrefixFree : busy.tree.valid = true ∧ TreeInv busy.tree := ⟨rfl, treeInv_treeV1⟩

theorem witness_CgCodeIsPath : ∃ t, exec .cgGenerate { State.reset with tree := treeV1 } = .next t ∧
    ((ctAt t.codes.ct 0x62#8).valid) = true ∧ treeV1.valid = true ∧ TreeInv treeV1 := by
  obtain ⟨t, h, hp⟩ := next_of_after test_cg_generate
  simp only [Bool.and_eq_true, List.all_eq_true, beq_iff_eq] at hp
  have hc := hp.2 0x62#8 (by decide)
  exact ⟨t, h, by rw [hc]; decide +kernel, rfl, treeInv_treeV1⟩

/-- The single-symbol tree with the filler on the left, as 43_code_generator.md R107 allows. -/
def treeFillerLeft : Tree :=
  { treeOfA with node := nodePut treeOfA.node 2#9 (internalNode 100#64 1#9 0#9) }

theorem witness_CgSingleSymbol : (∀ t ∈ [treeOfA, treeFillerLeft], ∃ nd l r, t.valid = true ∧
    nodeAt t.node t.root = some nd ∧ nodeAt t.node nd.left = some l ∧ nodeAt t.node nd.right = some r ∧
    l.kind = .leaf ∧ r.kind = .leaf ∧ l.filler ≠ r.filler) := by
  intro t ht
  rcases List.mem_cons.1 ht with rfl | ht
  · exact ⟨internalNode 100#64 0#9 1#9, leafNode 0x61#8 100#32, fillerNode, by decide +kernel⟩
  · rw [List.mem_singleton.1 ht]
    exact ⟨internalNode 100#64 1#9 0#9, fillerNode, leafNode 0x61#8 100#32, by decide +kernel⟩

theorem witness_NotReadyChangesNothing : State.reset.tree.valid = false ∧ State.reset.codes.valid = false ∧
    State.reset.dec.valid = false ∧ { busy with hdr := State.reset.hdr }.hdr.valid = false := ⟨rfl, rfl, rfl, rfl⟩

/-- A table with a valid code of length 0, and one with two equal codes. -/
def codesBad : List Codes :=
  [{ codesV1 with ct := ctPut codesV1.ct 0#8 { valid := true, len := 0#8, bits := 0#256 } },
   { codesV1 with ct := ctPut codesV1.ct 0#8 { valid := true, len := 2#8, bits := 3#256 } }]

theorem witness_CgVerifyChecks : State.reset.codes.valid = false ∧
    (codesV1.valid = true ∧ codesOk codesV1.ct = true) ∧
    (∃ c ∈ codesBad, c.valid = true ∧ ∃ x, (ctAt c.ct x).valid = true ∧ (ctAt c.ct x).len = 0#8) ∧
    (∃ c ∈ codesBad, c.valid = true ∧ ∃ x y, x ≠ y ∧ (ctAt c.ct x).valid = true ∧ (ctAt c.ct y).valid = true ∧
      (ctAt c.ct x).len.toNat ≤ (ctAt c.ct y).len.toNat ∧
      ∀ i, i < (ctAt c.ct x).len.toNat → (ctAt c.ct x).bits.getLsbD i = (ctAt c.ct y).bits.getLsbD i) :=
  ⟨rfl, ⟨rfl, by decide +kernel⟩,
    ⟨_, List.mem_cons_self, rfl, 0#8, by decide +kernel⟩,
    ⟨_, List.mem_cons_of_mem _ List.mem_cons_self, rfl, 0#8, 0x62#8, by decide +kernel⟩⟩

/-- A writer with seven bits placed, OUT with one byte. -/
def nearlyFull : State := { busy with bw := { cur := 0xFE#8, nbits := 7#3, total := 7 } }

theorem witness_BwWriteBitPlaces : State.reset.bw.nbits ≠ 7#3 ∧
    (nearlyFull.bw.nbits = 7#3 ∧ ioFails nearlyFull.env .out nearlyFull.sink.pos = false ∧
      nearlyFull.sink.pos = nearlyFull.sink.len ∧ nearlyFull.sink.len.toNat < 2 ^ 64 - 1 ∧ nearlyFull.sink.mem.wf) ∧
    ((failing nearlyFull .out 1#64).bw.nbits = 7#3 ∧
      ioFails (failing nearlyFull .out 1#64).env .out (failing nearlyFull .out 1#64).sink.pos = true) := by
  decide +kernel

theorem clean_nearlyFull : nearlyFull.bw.Clean := by
  intro j hj
  have : j = 0 := by
    have : nearlyFull.bw.nbits.toNat = 7 := rfl
    omega
  subst this
  decide +kernel

theorem witness_BwWriteBitsAppends : let s := { nearlyFull with b := 256#64 }
    s.b.toNat ≤ 256 ∧ s.sink.pos = s.sink.len ∧ s.sink.len.toNat + 64 < 2 ^ 64 ∧ s.sink.mem.wf ∧ s.bw.Clean ∧
    NoneFails s (writeAsks s.sink.pos (s.bw.sends s.b.toNat)) ∧
    FirstFails (failing s .out 1#64) (writeAsks s.sink.pos (s.bw.sends s.b.toNat)) 0 ∧
    FirstFails (failing s .out 32#64) (writeAsks s.sink.pos (s.bw.sends s.b.toNat)) 31 :=
  ⟨by decide +kernel, by decide +kernel, by decide +kernel, by decide +kernel, clean_nearlyFull, noneFails_of_nil rfl _,
    firstFails_of (by decide +kernel) (by decide +kernel), firstFails_of (by decide +kernel) (by decide +kernel)⟩

/-- The table with every symbol. -/
def fullTable : Vector FtEntry 256 := Vector.replicate 256 { present := true, count := 1#32 }

theorem witness_RefusedOperands : 256 < (withAB 0#256 257#64).b.toNat ∧ ftN fullTable = 256 ∧
    ftN (ftPut fullTable 0#8 FtEntry.empty) = 255 ∧ 7#8 < (withAB 8#256 0#64).a.extractLsb 7 0 := by decide +kernel

theorem witness_BwClosePads : State.reset.bw.nbits = 0#3 ∧ nearlyFull.bw.Clean ∧
    (nearlyFull.bw.nbits ≠ 0#3 ∧ ioFails nearlyFull.env .out nearlyFull.sink.pos = false ∧
      nearlyFull.sink.pos = nearlyFull.sink.len ∧ nearlyFull.sink.len.toNat < 2 ^ 64 - 1 ∧ nearlyFull.sink.mem.wf) ∧
    ((failing nearlyFull .out 1#64).bw.nbits ≠ 0#3 ∧
      ioFails (failing nearlyFull .out 1#64).env .out (failing nearlyFull .out 1#64).sink.pos = true) :=
  ⟨rfl, clean_nearlyFull, by decide +kernel⟩

theorem witness_BwPacksBits :
    let ws : List BitWrite := [.bit true, .bits (BitVec.allOnes 256) 256, .bits 5#256 0]
    let s := { busy with host := packProgram ws }
    s.host = packProgram ws ∧ (∀ w ∈ ws, w.Fits) ∧ s.env.ioFaults = [] ∧ s.sink.pos = s.sink.len ∧
    s.sink.len.toNat + (ws.flatMap BitWrite.sent).length < 2 ^ 64 - 8 ∧ s.sink.mem.wf := by
  refine ⟨rfl, ?_, rfl, rfl, by decide +kernel, by decide +kernel⟩
  intro w hw
  simp only [List.mem_cons, List.not_mem_nil, or_false] at hw
  rcases hw with rfl | rfl | rfl
  · trivial
  · exact Nat.le_refl 256
  · exact Nat.zero_le 256

theorem witness_BrReadBitGivesBit :
    (let s := { busy with br := { cur := 1#8, left := 8#4, finished := false } };
      s.br.left ≠ 0#4 ∧ s.br.left ≤ 8#4) ∧
    (let s := busy;
      s.br.left = 0#4 ∧ s.br.finished = false ∧ s.src.pos < s.src.len ∧ ioFails s.env .inp s.src.pos = false) ∧
    (let s := failing busy .inp 0#64;
      s.br.left = 0#4 ∧ s.br.finished = false ∧ s.src.pos < s.src.len ∧ ioFails s.env .inp s.src.pos = true) ∧
    (let s := State.reset;
      s.br.left = 0#4 ∧ s.br.finished = false ∧ s.src.len ≤ s.src.pos) ∧
    (let s := { busy with br := { cur := 1#8, left := 0#4, finished := true } };
      s.br.left = 0#4 ∧ s.br.finished = true) := by decide +kernel

theorem witness_EndOfStream :
    (let s := { busy with br := { cur := 1#8, left := 0#4, finished := true } };
      s.br.left = 0#4 ∧ s.br.finished = true ∧ s.dec.valid = true) ∧
    (let s := { busy with src := { mem := [], len := 2#64, pos := 2#64 } };
      s.br.left = 0#4 ∧ s.br.finished = false ∧ s.src.len ≤ s.src.pos ∧ s.dec.valid = true) := by decide +kernel

theorem witness_ReaderUndoesWriter : Packs [true, false, true] (unread (withIn [0xA0#8])) ∧
    (withIn [0xA0#8]).env.ioFaults = [] ∧ 7 < 8 * (unread (withIn [0xA0#8])).length :=
  ⟨by unfold Packs; decide +kernel, rfl, by decide +kernel⟩

theorem witness_CfWriteHeaderAppends : let s := { busy with ft := ftPut fullTable 0#8 FtEntry.empty, a := 7#256 }
    (ftN s.ft ≤ 255 ∧ s.a.extractLsb 7 0 ≤ 7#8 ∧ s.sink.pos = s.sink.len ∧
      s.sink.len.toNat + 2048 < 2 ^ 64 ∧ s.sink.mem.wf) ∧
    NoneFails s (writeAsks s.sink.pos (12 + 5 * ftN s.ft)) ∧
    FirstFails (failing s .out 1#64) (writeAsks s.sink.pos (12 + 5 * ftN s.ft)) 0 ∧
    FirstFails (failing s .out 12#64) (writeAsks s.sink.pos (12 + 5 * ftN s.ft)) 11 :=
  ⟨by decide +kernel, noneFails_of_nil rfl _, firstFails_of (by decide +kernel) (by decide +kernel),
    firstFails_of (by decide +kernel) (by decide +kernel)⟩

theorem witness_CfReadHeaderReads : NoneFails (withIn containerV1) (readAsks 0#64 (12 + 5 * entriesV1.length)) ∧
    entriesV1.length = (3#8).toNat ∧
    unread (withIn containerV1) = headerOf 6#64 3#8 7#8 entriesV1 ++ [0x1F#8, 0x00#8] ∧
    FirstFails (failing (withIn containerV1) .inp 0#64)
      (readAsks 0#64 (headerReads (unread (withIn containerV1)))) 0 ∧
    FirstFails (failing (withIn containerV1) .inp 26#64)
      (readAsks 0#64 (headerReads (unread (withIn containerV1)))) 26 :=
  ⟨noneFails_of_nil rfl _, by decide +kernel, by decide +kernel,
    firstFails_of (by decide +kernel) (by decide +kernel), firstFails_of (by decide +kernel) (by decide +kernel)⟩

theorem truncated_take_1 : HeaderTruncated [0x48#8] := .inl (by decide)

theorem truncated_take_11 : HeaderTruncated (headerV1.take 11) := .inr ⟨(headerV1.take 11).drop 2, by decide⟩

theorem truncated_take_26 : HeaderTruncated (headerV1.take 26) :=
  .inr ⟨(headerV1.take 26).drop 2, by decide, .inr ⟨3#8, by decide⟩⟩

theorem witness_CfReadHeaderFaults :
    (∀ bs, NoneFails (withIn bs) (readAsks (withIn bs).src.pos (headerReads (unread (withIn bs))))) ∧
    (unread (withIn [0x48#8, 0x58#8]) = 0x48#8 :: 0x58#8 :: [] ∧ (0x48#8 ≠ 0x48#8 ∨ 0x58#8 ≠ 0x46#8)) ∧
    HeaderTruncated (unread (withIn [0x48#8])) ∧ HeaderTruncated (unread (withIn (headerV1.take 11))) ∧
    HeaderTruncated (unread (withIn (headerV1.take 26))) := by
  rw [show unread (withIn [0x48#8]) = [0x48#8] by decide +kernel,
    show unread (withIn (headerV1.take 11)) = headerV1.take 11 by decide +kernel,
    show unread (withIn (headerV1.take 26)) = headerV1.take 26 by decide +kernel]
  exact ⟨fun _ => noneFails_of_nil rfl _, by decide +kernel, truncated_take_1, truncated_take_11, truncated_take_26⟩

theorem ftCanonical_ftPut {ft : Vector FtEntry 256} (h : FtCanonical ft) (x : Byte) (c : Count) :
    FtCanonical (ftPut ft x { present := true, count := c }) := by
  intro y hy
  rw [ftAt_ftPut] at hy ⊢
  split at hy
  · cases hy
  · next hne => rw [if_neg hne]; exact h y hy

theorem ftCanonical_tableV1 : FtCanonical tableV1 :=
  ftCanonical_ftPut (ftCanonical_ftPut (ftCanonical_ftPut (fun x _ => by rw [ftAt_ftEmpty]; rfl) _ _) _ _) _ _

theorem witness_HeaderRoundTrip : ∃ t, exec .cfWriteHeader { withAB 7#256 6#64 with ft := tableV1 } = .next t ∧
    t.status = 0x00#8 ∧ outBytes t = outBytes { withAB 7#256 6#64 with ft := tableV1 } ++ headerV1 ∧
    FtCanonical tableV1 ∧ unread (withIn headerV1) = headerV1 := by
  obtain ⟨t, h, hp⟩ := next_of_after test_cf_write_header
  simp only [Bool.and_eq_true, beq_iff_eq] at hp
  exact ⟨t, h, hp.2, hp.1, ftCanonical_tableV1, by decide +kernel⟩

theorem inBytes_withIn_allSyms : inBytes (withIn allSyms) = allSyms := by decide +kernel

theorem witness_CompressRefusals : inBytes State.reset = [] ∧
    (∀ v : Byte, v ∈ inBytes (withIn allSyms)) ∧ (∀ v, (inBytes (withIn allSyms)).count v < 2 ^ 32) ∧
    NoneFails (withIn allSyms) (readAsks 0#64 (inBytes (withIn allSyms)).length) := by
  rw [inBytes_withIn_allSyms]
  exact ⟨rfl, mem_allSyms, count_lt_of_short (by rw [length_allSyms]; decide), noneFails_of_nil rfl _⟩

theorem witness_CompressWritesContainer : (∀ asks, NoneFails (withIn aaabbc) asks) ∧ (withIn aaabbc).sink.mem.wf ∧
    inBytes (withIn aaabbc) ≠ [] ∧ (∃ v : Byte, v ∉ inBytes (withIn aaabbc)) ∧
    (∀ v, (inBytes (withIn aaabbc)).count v < 2 ^ 32) :=
  ⟨noneFails_of_nil rfl, by decide, by decide +kernel, ⟨0#8, by decide +kernel⟩, count_lt_of_short (by decide +kernel)⟩

/-- The environment fails the access of this number to this byte, and no other. -/
def failingAt (s : State) (sp : Space) (off : Word) (k : Nat) : State :=
  { s with env := { s.env with ioFaults := [{ space := sp, offset := off, access := some k }] } }

-- 47_compress_sequencer.md R146, R149: 6 reads, 27 bytes of header, 6 reads with the one full byte, the last byte, the patch
theorem test_compress_patch_fails : after .compress (failingAt (withIn aaabbc) .out 11#64 41) (fun t =>
    t.status == 1#8 && t.seqStep == 8#4 && outBytes t == containerV1.set 11 0#8) = true := by decide +kernel

/-- One access of each step of COMPRESS on "aaabbc", with the number under which it is asked. -/
def stepAccesses : List (BitVec 4 × Access × Nat) :=
  [(1#4, (.inp, 5#64), 5), (5#4, (.out, 11#64), 17), (6#4, (.inp, 0#64), 33), (6#4, (.out, 27#64), 39),
   (7#4, (.out, 28#64), 40), (8#4, (.out, 11#64), 41)]

/-- "aaabbc" with the access `p` names failing. -/
def stepState (p : BitVec 4 × Access × Nat) : State := failingAt (withIn aaabbc) p.2.1.1 p.2.1.2 p.2.2

/-- Under the codes of V1 the access `p` names is the first to fail, and of the step it names. -/
def stepFails (p : BitVec 4 × Access × Nat) : Bool :=
  failsAt (stepState p) (compressAsks codesV1.ct aaabbc) p.2.2 &&
  (List.range p.2.2).all (fun j => !failsAt (stepState p) (compressAsks codesV1.ct aaabbc) j) &&
  (compressSteps codesV1.ct aaabbc)[p.2.2]? == some (p.1, p.2.1)

/-- TB_BUILD and CG_GENERATE make the codes of V1 there. -/
def stepCodes (p : BitVec 4 × Access × Nat) : Bool :=
  after .tbBuild { stepState p with ft := tableOf (countsOf aaabbc) } fun v =>
    after .cgGenerate v fun u => aaabbc.all fun x => ctAt u.codes.ct x == ctAt codesV1.ct x

theorem test_compress_steps : stepAccesses.all stepFails = true := by decide +kernel

theorem stepCodes_scan : stepCodes (1#4, (.inp, 5#64), 5) = true := by decide +kernel
theorem stepCodes_header : stepCodes (5#4, (.out, 11#64), 17) = true := by decide +kernel
theorem stepCodes_read : stepCodes (6#4, (.inp, 0#64), 33) = true := by decide +kernel
theorem stepCodes_flush : stepCodes (6#4, (.out, 27#64), 39) = true := by decide +kernel
theorem stepCodes_last : stepCodes (7#4, (.out, 28#64), 40) = true := by decide +kernel
theorem stepCodes_patch : stepCodes (8#4, (.out, 11#64), 41) = true := by decide +kernel

theorem stepCodes_stepAccesses : ∀ p ∈ stepAccesses, stepCodes p = true := by
  intro p hp
  simp only [stepAccesses, List.mem_cons, List.not_mem_nil, or_false] at hp
  rcases hp with rfl | rfl | rfl | rfl | rfl | rfl
  exacts [stepCodes_scan, stepCodes_header, stepCodes_read, stepCodes_flush, stepCodes_last, stepCodes_patch]

theorem packs_payloadV1 : Packs (payloadBits codesV1.ct aaabbc) [0x1F#8, 0x00#8] := by unfold Packs; decide +kernel

theorem witness_CompressFaultTable :
    (FirstFails (failing (withIn aaabbc) .inp 5#64) (readAsks 0#64 (inBytes (withIn aaabbc)).length) 5 ∧
      ∀ x, ((inBytes (withIn aaabbc)).take 5).count x < 2 ^ 32) ∧
    (∃ done, OverflowsAfter (inBytes longInput) done ∧ (∀ asks, NoneFails longInput asks) ∧
      ∃ x, 2 ^ 32 ≤ (inBytes longInput).count x) ∧
    (∀ p ∈ stepAccesses, ∃ v u,
      exec .tbBuild { stepState p with ft := tableOf (countsOf aaabbc) } = .next v ∧
      exec .cgGenerate v = .next u ∧ FirstFails (stepState p) (compressAsks u.codes.ct aaabbc) p.2.2 ∧
      (compressSteps u.codes.ct aaabbc)[p.2.2]? = some (p.1, p.2.1) ∧
      Packs (payloadBits u.codes.ct aaabbc) [0x1F#8, 0x00#8]) ∧
    inBytes (withIn aaabbc) = aaabbc := by
  refine ⟨⟨firstFails_of (by decide +kernel) (by decide +kernel), count_lt_of_short (by decide +kernel)⟩,
    ⟨_, overflowsAfter_longInput, noneFails_of_nil rfl, Config.blankByte, ?_⟩, fun p hm => ?_, by decide +kernel⟩
  · rw [show inBytes longInput = unread longInput from rfl, unread_longInput, List.count_replicate_self]
  · have hf := List.all_eq_true.1 test_compress_steps p hm
    obtain ⟨v, hv, hq⟩ := next_of_after (stepCodes_stepAccesses p hm)
    obtain ⟨u, hu, hr⟩ := next_of_after hq
    have hc : ∀ x ∈ aaabbc, ctAt u.codes.ct x = ctAt codesV1.ct x := by simpa using hr
    simp only [stepFails, Bool.and_eq_true, beq_iff_eq, List.all_eq_true, Bool.not_eq_true'] at hf
    refine ⟨v, u, hv, hu, ?_⟩
    rw [compressAsks, compressSteps_congr hc, payloadBits_congr hc]
    exact ⟨firstFails_of hf.1.1 hf.1.2, hf.2, packs_payloadV1⟩

/-- A source still to be encoded, with seven bits pending: 'a', 'b', 'd', 'a', where 'd' has no code. -/
def encoding (bs : List Byte) : State := { nearlyFull with src := (withIn bs).src }

/-- The accesses of `encoding` over these bytes. -/
def encodingAsks (bs : List Byte) : List Access := encodeAsks codesV1.ct 7 bs 0#64 1#64

theorem witness_EncodeStreamWrites : let s := encoding [0x61#8, 0x62#8]
    (s.codes.valid = true ∧ s.sink.pos = s.sink.len ∧ s.sink.len.toNat + 32 * (unread s).length + 1 < 2 ^ 64 ∧
      s.sink.mem.wf ∧ encodingAsks [0x61#8, 0x62#8] =
        encodeAsks s.codes.ct s.bw.nbits.toNat (unread s) s.src.pos s.sink.pos) ∧
    (NoneFails s (encodingAsks [0x61#8, 0x62#8]) ∧ (∀ v ∈ unread s, (ctAt s.codes.ct v).valid = true) ∧ s.bw.Clean) ∧
    (FirstFails (failing s .inp 1#64) (encodingAsks [0x61#8, 0x62#8]) 2 ∧
      readCount ((encodingAsks [0x61#8, 0x62#8]).take 2) = 1 ∧
      (encodingAsks [0x61#8, 0x62#8])[2]?.map Prod.fst = some .inp) ∧
    (FirstFails (failing s .out 1#64) (encodingAsks [0x61#8, 0x62#8]) 1 ∧
      readCount ((encodingAsks [0x61#8, 0x62#8]).take 1) = 1 ∧
      (encodingAsks [0x61#8, 0x62#8])[1]?.map Prod.fst = some .out) :=
  ⟨by decide +kernel, ⟨noneFails_of_nil rfl _, by decide +kernel, clean_nearlyFull⟩,
    ⟨firstFails_of (by decide +kernel) (by decide +kernel), by decide +kernel⟩,
    firstFails_of (by decide +kernel) (by decide +kernel), by decide +kernel⟩

theorem witness_EncodeStreamMissingCode : let s := encoding [0x61#8, 0x62#8, 0x64#8, 0x61#8]
    (s.codes.valid = true ∧ unread s = [0x61#8, 0x62#8] ++ 0x64#8 :: [0x61#8] ∧
      (∀ x ∈ [0x61#8, 0x62#8], (ctAt s.codes.ct x).valid = true) ∧ (ctAt s.codes.ct 0x64#8).valid = false ∧
      s.sink.pos = s.sink.len ∧ s.sink.len.toNat + 32 * [0x61#8, 0x62#8].length + 1 < 2 ^ 64 ∧ s.sink.mem.wf) ∧
    s.bw.Clean ∧
    NoneFails s (encodeAsks s.codes.ct s.bw.nbits.toNat [0x61#8, 0x62#8] s.src.pos s.sink.pos ++
      [(.inp, s.src.pos + BitVec.ofNat 64 [0x61#8, 0x62#8].length)]) :=
  ⟨by decide +kernel, clean_nearlyFull, noneFails_of_nil rfl _⟩

theorem witness_PatchPaddingWrites :
    7#8 < (withAB 8#256 0#64).a.extractLsb 7 0 ∧
    ((withAB 7#256 0#64).a.extractLsb 7 0 ≤ 7#8 ∧
      { busy with sink := { mem := [], len := 11#64, pos := 11#64 } }.sink.len ≤ 11#64) ∧
    (let s := { withAB 7#256 0#64 with sink := { mem := [], len := 12#64, pos := 12#64 } };
      s.a.extractLsb 7 0 ≤ 7#8 ∧ 11#64 < s.sink.len ∧ s.sink.mem.wf ∧ ioFails s.env .out 11#64 = false ∧
      ioFails (failing s .out 11#64).env .out 11#64 = true) := by decide +kernel

theorem witness_DecStepWalks :
    (let s := failing busy .inp 0#64;
      s.dec.valid = true ∧ s.br.left = 0#4 ∧ s.br.finished = false ∧ s.src.pos < s.src.len ∧
      ioFails s.env .inp s.src.pos = true) ∧
    (busy.dec.valid = true ∧ busy.br.left = 0#4 ∧ busy.br.finished = false ∧ busy.src.pos < busy.src.len ∧
      ioFails busy.env .inp busy.src.pos = false ∧ false = (memRead busy.src.mem busy.src.pos.toNat).getLsbD 7 ∧
      nodeAt busy.tree.node busy.dec.cur = some (internalNode 6#64 0#9 3#9) ∧
      nodeAt busy.tree.node 0#9 = some (leafNode 0x61#8 3#32) ∧ busy.sink.pos = busy.sink.len ∧
      busy.sink.len.toNat < 2 ^ 64 - 1 ∧ busy.sink.mem.wf ∧ busy.dec.count ≠ BitVec.allOnes 64 ∧
      ioFails busy.env .out busy.sink.pos = false ∧
      ioFails (failing busy .out 1#64).env .out busy.sink.pos = true) ∧
    (let s := { busy with br := { cur := 1#8, left := 1#4, finished := false } };
      s.br.left ≠ 0#4 ∧ s.br.left ≤ 8#4 ∧ true = s.br.cur.getLsbD (s.br.left.toNat - 1) ∧
      nodeAt s.tree.node 3#9 = some (internalNode 3#64 2#9 1#9)) ∧
    (nodeAt treeOfA.node 1#9 = some fillerNode) ∧
    (nodeAt (treeV1.add (internalNode 0#64 0x1FF#9 0x1FF#9)).node 5#9 = some (internalNode 0#64 0x1FF#9 0x1FF#9)) := by
  decide +kernel

/-- States about to decode whose walks end in the three ways, one with BR_FINISHED = 1. -/
def walkStates : List (State × WalkEnd) :=
  [({ busy with br := { cur := 0#8, left := 1#4, finished := false } }, .reached),
   ({ busy with br := { cur := 0#8, left := 8#4, finished := true } }, .reached),
   ({ busy with br := { cur := 0#8, left := 1#4, finished := true } }, .ranOut),
   ({ busy with src := (withIn [0x1F#8]).src }, .ranOut)]

/-- The accesses of DEC_STREAM on `busy`. -/
def busyAsks : List Access := decodeAsks treeV1 4#9 6 0 0#64 1#64 (bytesBits [0x1F#8, 0x00#8])

theorem busyAsks_eq : busyAsks = decodeAsks busy.tree busy.dec.cur (busy.hdr.size.toNat - busy.dec.count.toNat)
    busy.br.left.toNat busy.src.pos busy.sink.pos (availableBits busy) := by decide +kernel

theorem witness_DecStreamDecodes : (∀ p ∈ walkStates,
      p.1.dec.valid = true ∧ p.1.hdr.valid = true ∧
      p.1.dec.cur.toNat < p.1.tree.cnt.toNat ∧ (recordAt p.1.tree p.1.dec.cur.toNat).kind = .internal ∧ p.1.br.left ≤ 8#4 ∧
      p.1.sink.mem.wf ∧ p.1.sink.pos = p.1.sink.len ∧ p.1.sink.len.toNat + p.1.hdr.size.toNat < 2 ^ 64 ∧
      p.1.dec.count < p.1.hdr.size ∧
      (decodeWalk p.1.tree p.1.dec.cur (p.1.hdr.size.toNat - p.1.dec.count.toNat) (availableBits p.1)).outcome = p.2) ∧
    (∀ p ∈ walkStates, TreeInv p.1.tree ∧ ∀ asks, NoneFails p.1 asks) ∧
    (FirstFails (failing busy .inp 1#64) busyAsks 6 ∧ readCount (busyAsks.take 6) = 1 ∧
      busyAsks[6]?.map Prod.fst = some .inp) ∧
    (FirstFails (failing busy .out 1#64) busyAsks 1 ∧ readCount (busyAsks.take 1) = 1 ∧
      busyAsks[1]?.map Prod.fst = some .out) ∧
    (decodeWalk treeOfA 2#9 8 (bytesBits [0x10#8])).outcome = .deadEnd ∧
    { busy with dec := { busy.dec with count := 7#64 } }.hdr.size < 7#64 ∧
    ∃ t, exec .decStream (decoding [0x1F#8, 0x00#8]) = .next t ∧ t.status = 0x00#8 := by
  refine ⟨by decide +kernel, fun p hp => ?_,
    ⟨firstFails_of (by decide +kernel) (by decide +kernel), by decide +kernel, by decide +kernel⟩,
    ⟨firstFails_of (by decide +kernel) (by decide +kernel), by decide +kernel, by decide +kernel⟩,
    by decide +kernel, by decide +kernel, ?_⟩
  · simp only [walkStates, List.mem_cons, List.not_mem_nil, or_false] at hp
    rcases hp with rfl | rfl | rfl | rfl <;> exact ⟨treeInv_treeV1, noneFails_of_nil rfl⟩
  · obtain ⟨t, h, hp⟩ := next_of_after (p := fun t => t.status == 0x00#8)
      (i := .decStream) (s := decoding [0x1F#8, 0x00#8]) (by decide +kernel)
    exact ⟨t, h, by simpa using hp⟩

theorem witness_DecompressDecodes : ∃ v, exec .tbBuild { withIn containerV1 with ft := tableOf entriesV1 } = .next v ∧
    (decodeWalk v.tree v.tree.root (6#64).toNat (bytesBits [0x1F#8, 0x00#8])).outcome = .reached ∧
    NoneFails (withIn containerV1) (decompressAsks v.tree 6#64 entriesV1.length [0x1F#8, 0x00#8]) ∧
    (withIn containerV1).sink.mem.wf ∧ entriesV1.length = (3#8).toNat ∧
    inBytes (withIn containerV1) = headerOf 6#64 3#8 7#8 entriesV1 ++ [0x1F#8, 0x00#8] ∧ (6#64 : Word) ≠ 0#64 ∧
    (3#8 : Byte) ≠ 0#8 := by
  obtain ⟨t, h, hp⟩ := next_of_after test_tb_build
  simp only [Bool.and_eq_true, beq_iff_eq] at hp
  have hr : t.tree.root = 4#9 := hp.1.1.2
  refine ⟨t, h, ?_, noneFails_of_nil rfl _, by decide +kernel⟩
  rw [show (6#64 : Word).toNat = 6 from rfl, hp.1.1.1.1]

/-- The walk of the container V1 asks 29 reads and 6 writes; the tree is the one test_tb_build gives. -/
theorem test_tb_build_failing : (∀ p ∈ [((Space.inp, 27#64), 27), ((Space.inp, 28#64), 33), ((Space.out, 5#64), 34)],
    after .tbBuild { failing (withIn containerV1) p.1.1 p.1.2 with ft := tableOf entriesV1 } (fun v =>
      let asks := decompressAsks v.tree 6#64 3 [0x1F#8, 0x00#8]
      failsAt (failing (withIn containerV1) p.1.1 p.1.2) asks p.2 &&
      (List.range p.2).all (fun j => !failsAt (failing (withIn containerV1) p.1.1 p.1.2) asks j) &&
      asks[p.2]?.map Prod.fst == some p.1.1) = true) := by decide +kernel

theorem witness_DecompressFaultTable :
    (∀ bs, NoneFails (withIn bs) (readAsks 0#64 (headerReads (inBytes (withIn bs))))) ∧
    FirstFails (failing (withIn containerV1) .inp 26#64)
      (readAsks 0#64 (headerReads (inBytes (withIn containerV1)))) 26 ∧
    (inBytes (withIn [0x48#8, 0x58#8]) = 0x48#8 :: 0x58#8 :: [] ∧ (0x48#8 ≠ 0x48#8 ∨ 0x58#8 ≠ 0x46#8)) ∧
    (inBytes (withIn (headerV1.take 26)) = headerV1.take 26 ∧ HeaderTruncated (headerV1.take 26)) ∧
    (let s := withIn (headerOf 0#64 3#8 0#8 entriesV1);
      inBytes s = headerOf 0#64 3#8 0#8 entriesV1 ++ [] ∧ entriesV1.length = (3#8).toNat) ∧
    (let s := withIn (headerOf 9#64 0#8 0#8 []);
      inBytes s = headerOf 9#64 0#8 0#8 [] ++ [] ∧ ([] : List HdrEntry).length = (0#8).toNat) ∧
    (∃ t, exec .decompress (withIn containerV1) = .next t ∧ t.status = 0x00#8) ∧
    (∀ p ∈ [((Space.inp, 28#64), 33), ((Space.out, 5#64), 34)],
      NoneFails (failing (withIn containerV1) p.1.1 p.1.2)
        (readAsks 0#64 (headerReads (inBytes (withIn containerV1)))) ∧
      ∃ v, exec .tbBuild { failing (withIn containerV1) p.1.1 p.1.2 with ft := tableOf entriesV1 } = .next v ∧
        FirstFails (failing (withIn containerV1) p.1.1 p.1.2) (decompressAsks v.tree 6#64 3 [0x1F#8, 0x00#8]) p.2 ∧
        (decompressAsks v.tree 6#64 3 [0x1F#8, 0x00#8])[p.2]?.map Prod.fst = some p.1.1) := by
  obtain ⟨t, h, hp⟩ := next_of_after test_decompress
  simp only [Bool.and_eq_true, beq_iff_eq] at hp
  refine ⟨fun _ => noneFails_of_nil rfl _, firstFails_of (by decide +kernel) (by decide +kernel), by decide +kernel,
    ⟨by decide +kernel, truncated_take_26⟩, by decide +kernel, by decide +kernel, ⟨t, h, hp.1.2⟩, fun p hm => ⟨?_, ?_⟩⟩
  · rw [show headerReads (inBytes (withIn containerV1)) = 27 by decide +kernel]
    refine noneFails_of_lt fun k hk => ?_
    revert k p
    decide +kernel
  · obtain ⟨v, hv, hq⟩ := next_of_after (test_tb_build_failing p (List.mem_cons_of_mem _ hm))
    simp only [Bool.and_eq_true, beq_iff_eq, List.all_eq_true, Bool.not_eq_true'] at hq
    exact ⟨v, hv, firstFails_of hq.1.1 hq.1.2, hq.2⟩

theorem witness_DecompressCompletes :
    (let ents : List HdrEntry := [⟨0x61#8, 1#32⟩, ⟨0x62#8, 0#32⟩];
      let s := withIn (headerOf 1#64 2#8 0#8 ents ++ List.replicate 32 0xFF#8);
      s.env.ioFaults = [] ∧ s.sink.mem.wf ∧ ents.length = (2#8).toNat ∧
      inBytes s = headerOf 1#64 2#8 0#8 ents ++ List.replicate 32 0xFF#8 ∧
      (∃ e ∈ ents, ∃ f ∈ ents, e.sym ≠ f.sym) ∧ 255 * (1#64).toNat ≤ 8 * (List.replicate 32 0xFF#8).length) ∧
    (let ents : List HdrEntry := [⟨0x61#8, 1#32⟩, ⟨0x61#8, 9#32⟩];
      let s := withIn (headerOf 8#64 2#8 0#8 ents ++ [0x00#8]);
      inBytes s = headerOf 8#64 2#8 0#8 ents ++ [0x00#8] ∧ ents ≠ [] ∧ (∀ e ∈ ents, e.sym = 0x61#8) ∧
      (8#64).toNat ≤ 8 * [0x00#8].length ∧ (∀ b ∈ (bytesBits [0x00#8]).take (8#64).toNat, b = false)) := by
  decide +kernel

theorem witness_SelfContained : let s := { withIn aaabbc with sink := busy.sink }
    let u := { busy with src := (withIn aaabbc).src }
    s.src.mem = u.src.mem ∧ s.src.len = u.src.len ∧ s.env = u.env ∧ s.sink.mem.wf ∧ u.sink.mem.wf := by decide +kernel

theorem witness_RoundTrip : ∃ t, exec .compress (withIn aaabbc) = .next t ∧ inBytes (withIn containerV1) = outBytes t ∧
    (withIn aaabbc).env.tieRank = (withIn containerV1).env.tieRank ∧ (withIn containerV1).env.ioFaults = [] ∧
    inBytes (withIn aaabbc) ≠ [] ∧ (∃ v : Byte, v ∉ inBytes (withIn aaabbc)) ∧
    ∀ v, (inBytes (withIn aaabbc)).count v < 2 ^ 32 := by
  obtain ⟨t, h, hp⟩ := next_of_after test_compress
  simp only [Bool.and_eq_true, beq_iff_eq] at hp
  have hin : inBytes (withIn containerV1) = containerV1 := by decide +kernel
  exact ⟨t, h, hin.trans hp.1.1.symm, rfl, rfl, witness_CompressWritesContainer.2.2⟩

theorem witness_InvStep : Inv busy ∧ ∃ t, step busy = .next t := ⟨inv_busy, _, rfl⟩

theorem witness_EveryCommandEnds : Inv busy := inv_busy

theorem witness_OperandsAndResults : (∃ t, exec .pqPeek State.reset = .next t ∧ t.status ≠ 0x00#8) ∧
    ∃ t, exec .pqPeek tieQueue = .next t ∧ t.status = 0x00#8 := by
  obtain ⟨t, h, hp⟩ := next_of_after (p := fun t => t.status != 0x00#8)
    (i := .pqPeek) (s := State.reset) (by decide +kernel)
  obtain ⟨u, k, kp⟩ := next_of_after (p := fun t => t.status == 0x00#8)
    (i := .pqPeek) (s := tieQueue) (by decide +kernel)
  exact ⟨⟨t, h, by simpa using hp⟩, u, k, by simpa using kp⟩

theorem witness_StatusValues : (∃ t, exec .ftClear busy = .next t) ∧ busy.env.ioFaults = [] := ⟨⟨_, rfl⟩, rfl⟩

theorem witness_SeqStepAfter : (∃ t, exec .compress State.reset = .next t ∧ t.seqStep = 2#4) ∧
    (∃ t, exec .decompress State.reset = .next t ∧ t.seqStep = 1#4) ∧ ∃ t, exec .ftClear State.reset = .next t := by
  obtain ⟨t, h, hp⟩ := next_of_after test_compress_empty
  simp only [Bool.and_eq_true, beq_iff_eq] at hp
  obtain ⟨u, k, kp⟩ := next_of_after (p := fun t => t.seqStep == 1#4)
    (i := .decompress) (s := State.reset) (by decide +kernel)
  exact ⟨⟨t, h, hp.2⟩, ⟨u, k, by simpa using kp⟩, _, rfl⟩

theorem witness_FlagDiscipline : (∃ t, exec .cfReadHeader State.reset = .next t) ∧ (∃ t, exec .tbBuild State.reset = .next t) ∧
    (∃ t, exec .cgGenerate { State.reset with tree := treeV1 } = .next t ∧ treeV1.valid = true) ∧
    (∃ t, exec .decInit busy = .next t ∧ t.status = 0x00#8) ∧ ∃ t, exec .pqInit busy = .next t := by
  obtain ⟨a, ha, _⟩ := next_of_after (p := fun _ => true) (i := .cfReadHeader) (s := State.reset) (by decide +kernel)
  obtain ⟨b, hb, _⟩ := next_of_after (p := fun _ => true) (i := .tbBuild) (s := State.reset) (by decide +kernel)
  obtain ⟨c, hc, _⟩ := next_of_after test_cg_generate
  exact ⟨⟨a, ha⟩, ⟨b, hb⟩, ⟨c, hc, rfl⟩, ⟨_, rfl, rfl⟩, _, rfl⟩

theorem witness_InternalCheckNeverFails : Inv busy ∧ ∃ t, exec .bwInit busy = .next t := ⟨inv_busy, _, rfl⟩

end Sys2Proof.Machine
end

section
/-! The five commands that open a stream or start a writer, a reader or a traversal (20_memory.md R51, R53,
44_bit_writer.md R115, 45_bit_reader.md R125, 48_decode_traversal.md R158): what each does as a sub-step, then what it does
when the host issues it. -/
namespace Sys2Proof.Machine

/-- A needed flag that is set lets the command go on (10_state.md R26). -/
theorem need_of_set {flag : State → Bool} {s : State} (h : flag s = true) : need flag s = .ok () s := by
  rw [need_eq, if_pos h]

/-- A needed flag that is clear raises NotReady with nothing written (10_state.md R26). -/
theorem need_of_clear {flag : State → Bool} {s : State} (h : flag s = false) :
    need flag s = .error (.raised .notReady) s := by
  rw [need_eq, if_neg (by simp [h])]

theorem srcOpen_eq (s : State) : srcOpen s = .ok () (s.setSrc { s.src with pos := 0#64 }) := rfl

theorem sinkOpen_eq (s : State) : sinkOpen s = .ok () (s.setSink { s.sink with len := 0#64, pos := 0#64 }) := rfl

theorem bwInit_eq (s : State) : bwInit s = .ok () (s.setBw BitWriter.init) := rfl

theorem brInit_eq (s : State) : brInit s = .ok () (s.setBr BitReader.init) := rfl

theorem decInit_of_tree {s : State} (h : s.tree.valid = true) :
    decInit s = .ok () (s.setDec { cur := s.tree.root, count := 0#64, valid := true }) :=
  Cmd.run_bind_ok (need_of_set h)

theorem decInit_of_no_tree {s : State} (h : s.tree.valid = false) : decInit s = .error (.raised .notReady) s :=
  Cmd.run_bind_error (need_of_clear h)

theorem exec_srcOpen (s : State) :
    exec .srcOpen s = .next (ended (s.setSrc { s.src with pos := 0#64 }) statusOk) :=
  issue_of_ok (srcOpen_eq (s.setSeqStep 0#4))

theorem exec_sinkOpen (s : State) :
    exec .sinkOpen s = .next (ended (s.setSink { s.sink with len := 0#64, pos := 0#64 }) statusOk) :=
  issue_of_ok (sinkOpen_eq (s.setSeqStep 0#4))

theorem exec_bwInit (s : State) : exec .bwInit s = .next (ended (s.setBw BitWriter.init) statusOk) :=
  issue_of_ok (bwInit_eq (s.setSeqStep 0#4))

theorem exec_brInit (s : State) : exec .brInit s = .next (ended (s.setBr BitReader.init) statusOk) :=
  issue_of_ok (brInit_eq (s.setSeqStep 0#4))

theorem exec_decInit_of_tree {s : State} (h : s.tree.valid = true) :
    exec .decInit s = .next (ended (s.setDec { cur := s.tree.root, count := 0#64, valid := true }) statusOk) :=
  issue_of_ok (decInit_of_tree (s := s.setSeqStep 0#4) h)

theorem exec_decInit_of_no_tree {s : State} (h : s.tree.valid = false) :
    exec .decInit s = .next (ended s ErrKind.notReady.code) :=
  issue_of_raised (decInit_of_no_tree (s := s.setSeqStep 0#4) h)

/-- Settles O10: one equation per command, DEC_INIT by its needed flag. -/
theorem openAndInit : Obligations.OpenAndInit := fun s =>
  ⟨exec_srcOpen s, exec_sinkOpen s, exec_bwInit s, exec_brInit s, exec_decInit_of_tree, exec_decInit_of_no_tree⟩

end Sys2Proof.Machine
end

section
/-! Big-endian fields (20_memory.md R43): each byte of a split number is a slice of it, and joining bytes is
concatenation. -/
namespace Sys2Proof.Machine

/-- Byte i of n has n - 1 - i bytes after it. -/
theorem getElem?_beBytes {n i : Nat} (v : Nat) (h : i < n) :
    (beBytes n v)[i]? = some (BitVec.ofNat 8 (v / 256 ^ (n - 1 - i))) := by
  induction n generalizing i with
  | zero => omega
  | succ n ih =>
    cases i with
    | zero => rfl
    | succ i =>
      have hi : n + 1 - 1 - (i + 1) = n - 1 - i := by omega
      rw [beBytes, List.getElem?_cons_succ, ih (by omega), hi]

/-- The byte with k bytes after it is the slice that starts at bit 8 * k. -/
theorem ofNat_div_pow_eq_extractLsb' {w : Nat} (v : BitVec w) (k : Nat) :
    BitVec.ofNat 8 (v.toNat / 256 ^ k) = v.extractLsb' (8 * k) 8 := by
  have hk : 256 ^ k = 2 ^ (8 * k) := by rw [Nat.pow_mul]
  rw [hk, BitVec.extractLsb', Nat.shiftRight_eq_div_pow]

theorem getElem?_be64Bytes {i : Nat} (v : Word) (h : i < 8) :
    (be64Bytes v)[i]? = some (v.extractLsb' (56 - 8 * i) 8) := by
  have hi : 56 - 8 * i = 8 * (8 - 1 - i) := by omega
  rw [be64Bytes, getElem?_beBytes _ h, ofNat_div_pow_eq_extractLsb', hi]

theorem getElem?_be32Bytes {i : Nat} (v : Count) (h : i < 4) :
    (be32Bytes v)[i]? = some (v.extractLsb' (24 - 8 * i) 8) := by
  have hi : 24 - 8 * i = 8 * (4 - 1 - i) := by omega
  rw [be32Bytes, getElem?_beBytes _ h, ofNat_div_pow_eq_extractLsb', hi]

/-- A step of `beValue` is the concatenation of one more byte. -/
theorem toNat_append_byte {w : Nat} (x : BitVec w) (b : Byte) : (x ++ b).toNat = x.toNat * 256 + b.toNat := by
  rw [BitVec.toNat_append, ← Nat.shiftLeft_add_eq_or_of_lt b.isLt, Nat.shiftLeft_eq]

theorem be64Value_eq_append (b0 b1 b2 b3 b4 b5 b6 b7 : Byte) :
    be64Value [b0, b1, b2, b3, b4, b5, b6, b7] = b0 ++ b1 ++ b2 ++ b3 ++ b4 ++ b5 ++ b6 ++ b7 := by
  have h : beValue [b0, b1, b2, b3, b4, b5, b6, b7] =
      (b0 ++ b1 ++ b2 ++ b3 ++ b4 ++ b5 ++ b6 ++ b7).toNat := by
    simp [beValue, toNat_append_byte]
  rw [be64Value, h, BitVec.ofNat_toNat, BitVec.setWidth_eq]

theorem be32Value_eq_append (b0 b1 b2 b3 : Byte) : be32Value [b0, b1, b2, b3] = b0 ++ b1 ++ b2 ++ b3 := by
  have h : beValue [b0, b1, b2, b3] = (b0 ++ b1 ++ b2 ++ b3).toNat := by
    simp [beValue, toNat_append_byte]
  rw [be32Value, h, BitVec.ofNat_toNat, BitVec.setWidth_eq]

/-- Settles O11: the lengths, the byte at each place, and the two joins. -/
theorem bigEndianBytes : Obligations.BigEndianBytes :=
  ⟨fun v => ⟨length_be64Bytes v, fun _ => getElem?_be64Bytes v⟩,
    fun v => ⟨length_be32Bytes v, fun _ => getElem?_be32Bytes v⟩, be64Value_eq_append, be32Value_eq_append⟩

end Sys2Proof.Machine
end

section
/-! FT_CLEAR and FT_SET (40_frequency_table.md R80, R81): each as a sub-step, then when the host issues it; the operands as
the slices of A and B that R69 names. -/
namespace Sys2Proof.Machine

theorem opSymbol_eq_extractLsb (s : State) : opSymbol s = s.a.extractLsb 7 0 :=
  BitVec.setWidth_eq_extractLsb' (by decide)

theorem opCount_eq_extractLsb (s : State) : opCount s = s.b.extractLsb 31 0 :=
  BitVec.setWidth_eq_extractLsb' (by decide)

theorem ftClear_eq (s : State) : ftClear s = .ok () (s.dropTree.setFt ftEmpty) := rfl

theorem ftSet_eq (x : Byte) (c : Count) (s : State) :
    ftSet x c s = .ok () (s.dropTree.setFt (ftPut s.ft x { present := true, count := c })) := rfl

theorem exec_ftClear (s : State) : exec .ftClear s = .next (ended (s.dropTree.setFt ftEmpty) statusOk) :=
  issue_of_ok (ftClear_eq (s.setSeqStep 0#4))

theorem exec_ftSet (s : State) :
    exec .ftSet s = .next (ended (s.dropTree.setFt
      (ftPut s.ft (opSymbol s) { present := true, count := opCount s })) statusOk) :=
  issue_of_ok (ftSet_eq (opSymbol s) (opCount s) (s.setSeqStep 0#4))

/-- Settles O7: the whole next state of each command, then its table entry by entry. -/
theorem ftClearFtSet : Obligations.FtClearFtSet := fun s => by
  refine ⟨⟨_, exec_ftClear s, ftAt_ftEmpty⟩, ⟨_, exec_ftSet s, fun x => ?_⟩⟩
  rw [ftAt_ftPut, opSymbol_eq_extractLsb, opCount_eq_extractLsb]

end Sys2Proof.Machine
end

section
/-! The priority queue (41_priority_queue.md R85 to R90): the order R86 is transitive and total on every pair, so the entry
`minEntry` picks comes before every other; then each of PQ_INIT, PQ_INSERT, PQ_PEEK and PQ_EXTRACT_MIN when the host
issues it. -/
namespace Sys2Proof.Machine

/-! ### The order -/

/-- R86 over the numbers the fields hold: four keys, compared one after the other. -/
theorem pqBefore_iff_toNat {env : Env} {x y : PqEntry} :
    pqBefore env x y = true ↔ x.prio.toNat < y.prio.toNat ∨ x.prio.toNat = y.prio.toNat ∧
      (tieRankOf env x < tieRankOf env y ∨ tieRankOf env x = tieRankOf env y ∧
        (x.seq < y.seq ∨ x.seq = y.seq ∧ x.value.toNat < y.value.toNat)) := by
  rw [pqBefore, decide_eq_true_iff, BitVec.lt_def, BitVec.lt_def, ← BitVec.toNat_inj]

theorem pqBefore_trans {env : Env} {x y z : PqEntry} (hxy : pqBefore env x y = true) (hyz : pqBefore env y z = true) :
    pqBefore env x z = true := by
  rw [pqBefore_iff_toNat] at hxy hyz ⊢
  omega

/-- Two entries neither of which comes before the other agree in every field. -/
theorem pqBefore_total {env : Env} {x y : PqEntry} (h : x ≠ y) :
    pqBefore env x y = true ∨ pqBefore env y x = true := by
  by_contra hn
  rw [pqBefore_iff_toNat, pqBefore_iff_toNat] at hn
  have hvalue : x.value = y.value := BitVec.eq_of_toNat_eq (by omega)
  have hprio : x.prio = y.prio := BitVec.eq_of_toNat_eq (by omega)
  have hseq : x.seq = y.seq := by omega
  cases x
  cases y
  exact h (by congr)

/-! ### The least entry -/

theorem not_pqBefore_minFrom {env : Env} {e f : PqEntry} {es : List PqEntry} (hf : f ∈ e :: es) :
    ¬ pqBefore env f (minFrom env e es) = true := by
  induction es generalizing e f with
  | nil =>
    rw [List.mem_singleton.1 hf, minFrom, pqBefore_iff_toNat]
    omega
  | cons g gs ih =>
    rw [minFrom]
    split
    case isTrue hge =>
      obtain rfl | hf := List.mem_cons.1 hf
      · exact fun h => ih List.mem_cons_self (pqBefore_trans hge h)
      · exact ih hf
    case isFalse hge =>
      have hem := ih (e := e) List.mem_cons_self
      obtain rfl | hf := List.mem_cons.1 hf
      · exact hem
      obtain rfl | hf := List.mem_cons.1 hf
      · intro h
        by_cases heq : e = minFrom env e gs
        · exact hge (heq ▸ h)
        · exact hge (pqBefore_trans h ((pqBefore_total heq).resolve_left hem))
      · exact ih (List.mem_cons_of_mem _ hf)

/-- MinEntry comes before every other entry of the queue (R86). -/
theorem pqBefore_of_minEntry {env : Env} {es : List PqEntry} {e f : PqEntry} (he : minEntry env es = some e)
    (hf : f ∈ es) (hne : f ≠ e) : pqBefore env e f = true := by
  cases es with
  | nil => cases hf
  | cons g gs =>
    obtain rfl := Option.some.inj he
    exact (pqBefore_total hne).resolve_left (not_pqBefore_minFrom hf)

theorem exists_minEntry {env : Env} {es : List PqEntry} (h : es ≠ []) : ∃ e, minEntry env es = some e :=
  Option.ne_none_iff_exists'.1 (mt minEntry_eq_none.1 h)

/-! ### The commands -/

theorem opValue_eq_extractLsb (s : State) : opValue s = s.a.extractLsb 15 0 :=
  BitVec.setWidth_eq_extractLsb' (by decide)

theorem exec_pqInit (s : State) : exec .pqInit s = .next (ended (s.setQueue { entries := [], seq := 0 }) statusOk) :=
  issue_of_ok (pqInit_eq (s.setSeqStep 0#4))

theorem exec_pqInsert (s : State) :
    exec .pqInsert s = .next (ended (s.setQueue
      { entries := s.queue.entries ++ [{ value := opValue s, prio := opPriority s, seq := s.queue.seq }]
        seq := s.queue.seq + 1 }) statusOk) :=
  issue_of_ok (pqInsert_eq (opValue s) (opPriority s) (s.setSeqStep 0#4))

theorem pqPeek_of_min {s : State} {e : PqEntry} (h : minEntry s.env s.queue.entries = some e) :
    pqPeek s = .ok e s := by
  rw [pqPeek_eq, h]

theorem pqPeek_of_empty {s : State} (h : s.queue.entries = []) : pqPeek s = .error (.raised .queueEmpty) s := by
  rw [pqPeek_eq, minEntry_eq_none.2 h]

theorem pqExtractMin_of_min {s : State} {e : PqEntry} (h : minEntry s.env s.queue.entries = some e) :
    pqExtractMin s = .ok e (s.setQueue { s.queue with entries := s.queue.entries.erase e }) := by
  rw [pqExtractMin_eq, h]

theorem pqExtractMin_of_empty {s : State} (h : s.queue.entries = []) :
    pqExtractMin s = .error (.raised .queueEmpty) s := by
  rw [pqExtractMin_eq, minEntry_eq_none.2 h]

theorem giveEntry_eq (e : PqEntry) (s : State) :
    giveEntry e s = .ok () ((s.setR0 (e.value.setWidth 64)).setR1 e.prio) := rfl

theorem exec_pqPeek_of_min {s : State} {e : PqEntry} (h : minEntry s.env s.queue.entries = some e) :
    exec .pqPeek s = .next (ended ((s.setR0 (e.value.setWidth 64)).setR1 e.prio) statusOk) :=
  issue_of_ok ((Cmd.run_bind_ok (pqPeek_of_min (s := s.setSeqStep 0#4) h)).trans (giveEntry_eq e _))

theorem exec_pqPeek_of_empty {s : State} (h : s.queue.entries = []) :
    exec .pqPeek s = .next (ended s ErrKind.queueEmpty.code) :=
  issue_of_raised (Cmd.run_bind_error (pqPeek_of_empty (s := s.setSeqStep 0#4) h))

theorem exec_pqExtractMin_of_min {s : State} {e : PqEntry} (h : minEntry s.env s.queue.entries = some e) :
    exec .pqExtractMin s = .next (ended
      (((s.setQueue { s.queue with entries := s.queue.entries.erase e }).setR0 (e.value.setWidth 64)).setR1 e.prio)
      statusOk) :=
  issue_of_ok ((Cmd.run_bind_ok (pqExtractMin_of_min (s := s.setSeqStep 0#4) h)).trans (giveEntry_eq e _))

theorem exec_pqExtractMin_of_empty {s : State} (h : s.queue.entries = []) :
    exec .pqExtractMin s = .next (ended s ErrKind.queueEmpty.code) :=
  issue_of_raised (Cmd.run_bind_error (pqExtractMin_of_empty (s := s.setSeqStep 0#4) h))

/-- Settles O14: the entry is `minEntry`, which both commands give; only an empty queue has none. -/
theorem pqGivesMinimum : Obligations.PqGivesMinimum := fun s => by
  refine ⟨fun hne => ?_, fun h => ⟨exec_pqPeek_of_empty h, exec_pqExtractMin_of_empty h⟩⟩
  obtain ⟨e, he⟩ := exists_minEntry (env := s.env) hne
  exact ⟨e, mem_of_minEntry he, fun _ => pqBefore_of_minEntry he, exec_pqPeek_of_min he, exec_pqExtractMin_of_min he⟩

/-- Settles O12: one equation per command, the value as the slice of A that R69 names. -/
theorem pqInitInsert : Obligations.PqInitInsert := fun s =>
  ⟨exec_pqInit s, opValue_eq_extractLsb s ▸ exec_pqInsert s⟩

end Sys2Proof.Machine
end

section
/-! The tree builder (42_tree_builder.md): where TB_BUILD starts, the tree of one symbol (R96), one combination (R98), and
two runs of TB_BUILD side by side (R102). -/
namespace Sys2Proof.Machine

/-! ### Starting -/

/-- Where TB_BUILD of a table with symbols begins to add records: the three flags, the arena and the queue are cleared
(42_tree_builder.md R95). -/
def State.startBuild (s : State) : State :=
  { s with
    tree := { s.tree with cnt := 0#9, root := Config.null, valid := false }
    codes := { s.codes with valid := false }
    dec := { s.dec with valid := false }
    queue := { entries := [], seq := 0 } }

theorem tbBuild_of_present {s : State} (h : presentSyms s.ft ≠ []) :
    tbBuild s = (buildFrom (presentSyms s.ft) >>= fun _ => update fun t => t.setRootValid true) s.startBuild := by
  have hn : ¬ ftN s.dropTree.ft = 0 := fun hz => h (List.length_eq_zero_iff.1 hz)
  rw [tbBuild, Cmd.run_bind_ok (Cmd.run_update _ _), Cmd.run_bind_ok (Cmd.run_getState _), if_neg hn]
  rfl

/-! ### One symbol -/

/-- The arena after BuildSingle of this leaf: the three records it makes (42_tree_builder.md R96). -/
def singleArena (node : Vector Node 511) (leaf : Node) : Vector Node 511 :=
  nodePut (nodePut (nodePut node 0#9 leaf) 1#9 fillerNode) 2#9 (internalNode leaf.freq 0#9 1#9)

theorem nodeAt_singleArena_leaf (node : Vector Node 511) (leaf : Node) :
    nodeAt (singleArena node leaf) 0#9 = some leaf := by
  rw [singleArena, nodeAt_nodePut_ne _ _ (by decide), nodeAt_nodePut_ne _ _ (by decide),
    nodeAt_nodePut_self _ _ (by decide)]

theorem nodeAt_singleArena_filler (node : Vector Node 511) (leaf : Node) :
    nodeAt (singleArena node leaf) 1#9 = some fillerNode := by
  rw [singleArena, nodeAt_nodePut_ne _ _ (by decide), nodeAt_nodePut_self _ _ (by decide)]

theorem nodeAt_singleArena_root (node : Vector Node 511) (leaf : Node) :
    nodeAt (singleArena node leaf) 2#9 = some (internalNode leaf.freq 0#9 1#9) :=
  nodeAt_nodePut_self _ _ (by decide)

theorem nodeAt_singleArena_above (node : Vector Node 511) (leaf : Node) {i : NodeIx} (h : 2#9 < i) :
    nodeAt (singleArena node leaf) i = nodeAt node i := by
  have h2 : i ≠ 2#9 := by bv_omega
  have h1 : i ≠ 1#9 := by bv_omega
  have h0 : i ≠ 0#9 := by bv_omega
  rw [singleArena, nodeAt_nodePut_ne _ _ h2, nodeAt_nodePut_ne _ _ h1, nodeAt_nodePut_ne _ _ h0]

/-- Three records added to an empty arena take the indices 0, 1 and 2. -/
theorem Tree.add_add_add_of_empty {t : Tree} (h : t.cnt = 0#9) (l m n : Node) :
    ((t.add l).add m).add n =
      { t with node := nodePut (nodePut (nodePut t.node 0#9 l) 1#9 m) 2#9 n, cnt := 3#9 } := by
  simp [Tree.add, h]

theorem buildSingle_of_empty (x : Byte) {s : State} (h : s.tree.cnt = 0#9) :
    buildSingle x s = .ok () (s.setTree
      { s.tree with node := singleArena s.tree.node (leafNode x (ftAt s.ft x).count), cnt := 3#9, root := 2#9 }) := by
  have hfreq : ∀ n : Node, n.freq + fillerNode.freq = n.freq := fun n => BitVec.add_zero n.freq
  rw [buildSingle, Cmd.run_bind_ok (Cmd.run_getState _), Cmd.run_bind_ok (Cmd.run_update _ _), setRoot_eq, hfreq,
    Tree.add_add_add_of_empty h]
  rfl

theorem exec_tbBuild_of_single {s : State} {x : Byte} (h : presentSyms s.ft = [x]) :
    exec .tbBuild s = .next (ended (s.startBuild.setTree
      { node := singleArena s.tree.node (leafNode x (ftAt s.ft x).count), cnt := 3#9, root := 2#9, valid := true })
      statusOk) := by
  have hb := buildSingle_of_empty x (s := (s.setSeqStep 0#4).startBuild) rfl
  have ht := tbBuild_of_present (s := s.setSeqStep 0#4) (by simp [h])
  rw [State.setSeqStep_ft, h, buildFrom, Cmd.run_bind_ok hb] at ht
  exact issue_of_ok ht

/-- Settles O17: the whole next state, then the arena index by index. -/
theorem tbBuildSingle : Obligations.TbBuildSingle := fun s x h =>
  ⟨singleArena s.tree.node (leafNode x (ftAt s.ft x).count), exec_tbBuild_of_single h, nodeAt_singleArena_leaf _ _,
    nodeAt_singleArena_filler _ _, nodeAt_singleArena_root _ _, fun _ => nodeAt_singleArena_above _ _⟩

/-! ### One combination -/

/-- Settles O20: the queue has a least entry, and so has the rest; `combine_eq` gives the whole next state. -/
theorem tbCombineSides : Obligations.TbCombineSides := by
  intro s hlen hcnt
  obtain ⟨a, ha⟩ := exists_minEntry (env := s.env)
    (List.ne_nil_of_length_pos (by omega : 0 < s.queue.entries.length))
  have hrest := length_erase_minEntry ha
  obtain ⟨b, hb⟩ := exists_minEntry (env := s.env)
    (List.ne_nil_of_length_pos (by omega : 0 < (s.queue.entries.erase a).length))
  refine ⟨a, mem_of_minEntry ha, b, mem_of_minEntry hb, _, fun _ => pqBefore_of_minEntry ha,
    fun _ => pqBefore_of_minEntry hb, (combine_eq ha hb).trans (addAndQueue_eq _ _), ?_, ?_, rfl⟩
  · exact nodeAt_add_self _ hcnt
  · exact fun i hi => nodeAt_add_ne _ hi

/-! ### Two runs side by side -/

/-- Two runs end alike: normally with the same result or by raising the same error, in related states. -/
inductive EndAlike {α : Type} (R : State → State → Prop) :
    EStateM.Result Stop State α → EStateM.Result Stop State α → Prop
  | ok {t v : State} (a : α) (h : R t v) : EndAlike R (.ok a t) (.ok a v)
  | raised {t v : State} (e : ErrKind) (h : R t v) : EndAlike R (.error (.raised e) t) (.error (.raised e) v)

theorem endAlike_bind {α β : Type} {R : State → State → Prop} {c : Cmd α} {f : α → Cmd β} {s u : State}
    (hc : EndAlike R (c s) (c u)) (hf : ∀ a t v, R t v → EndAlike R (f a t) (f a v)) :
    EndAlike R ((c >>= f) s) ((c >>= f) u) := by
  rw [Cmd.run_bind, Cmd.run_bind]
  generalize c s = x, c u = y at hc ⊢
  cases hc with
  | ok a h => exact hf a _ _ h
  | raised e h => exact .raised e h

/-- The host sees a next state in both runs, related where STATUS does not matter to the relation. -/
theorem finish_of_endAlike {R : State → State → Prop} {x y : EStateM.Result Stop State Unit} (h : EndAlike R x y)
    (hR : ∀ t v b, R t v → R (t.setStatus b) (v.setStatus b)) :
    ∃ t v, finish x = .next t ∧ finish y = .next v ∧ R t v := by
  cases h with
  | ok _ h => exact ⟨_, _, rfl, rfl, hR _ _ _ h⟩
  | raised e h => exact ⟨_, _, rfl, rfl, hR _ _ _ h⟩

/-- All that TB_BUILD reads once it has started is equal in the two states (42_tree_builder.md R102). -/
structure SameBuild (s u : State) : Prop where
  ft : s.ft = u.ft
  tieRank : s.env.tieRank = u.env.tieRank
  queue : s.queue = u.queue
  cnt : s.tree.cnt = u.tree.cnt
  root : s.tree.root = u.tree.root
  records : ∀ i, i < s.tree.cnt.toNat → recordAt s.tree i = recordAt u.tree i

/-- At the start no record is in use. -/
theorem sameBuild_startBuild {s u : State} (hft : s.ft = u.ft) (hrank : s.env.tieRank = u.env.tieRank) :
    SameBuild s.startBuild u.startBuild :=
  ⟨hft, hrank, rfl, rfl, rfl, fun i hi => absurd hi (Nat.not_lt_zero i)⟩

theorem SameBuild.setQueue {s u : State} (h : SameBuild s u) (q : Queue) : SameBuild (s.setQueue q) (u.setQueue q) :=
  ⟨h.ft, h.tieRank, rfl, h.cnt, h.root, h.records⟩

theorem SameBuild.setRoot {s u : State} (h : SameBuild s u) (r : NodeIx) :
    SameBuild (s.setTree { s.tree with root := r }) (u.setTree { u.tree with root := r }) :=
  ⟨h.ft, h.tieRank, h.queue, h.cnt, rfl, h.records⟩

theorem SameBuild.setRootValid {s u : State} (h : SameBuild s u) (b : Bool) :
    SameBuild (s.setRootValid b) (u.setRootValid b) :=
  ⟨h.ft, h.tieRank, h.queue, h.cnt, h.root, h.records⟩

theorem SameBuild.setStatus {s u : State} (h : SameBuild s u) (b : Byte) :
    SameBuild (s.setStatus b) (u.setStatus b) :=
  ⟨h.ft, h.tieRank, h.queue, h.cnt, h.root, h.records⟩

/-- The records after one more was added at NODE_CNT; at NODE_CNT = 511 none is written (10_state.md R17). -/
theorem recordAt_add (t : Tree) (n : Node) (i : Nat) :
    recordAt (t.add n) i = if t.cnt.toNat = i ∧ i < 511 then n else recordAt t i := by
  rw [recordAt, Tree.add, nodePut, Vector.getElem?_setIfInBounds]
  split
  case isTrue hi =>
    subst hi
    by_cases hlt : t.cnt.toNat < 511
    · simp [hlt]
    · simp [hlt, recordAt]
  case isFalse hi => rw [if_neg fun h => hi h.1, recordAt]

theorem SameBuild.add {s u : State} (h : SameBuild s u) (n : Node) :
    SameBuild (s.setTree (s.tree.add n)) (u.setTree (u.tree.add n)) := by
  refine ⟨h.ft, h.tieRank, h.queue, congrArg (· + 1#9) h.cnt, h.root, fun i hi => ?_⟩
  have hi : i < (s.tree.cnt.toNat + 1) % 512 := hi
  show recordAt (s.tree.add n) i = recordAt (u.tree.add n) i
  rw [recordAt_add, recordAt_add, ← h.cnt]
  split
  case isTrue => rfl
  case isFalse hne => exact h.records i (by omega)

theorem pqBefore_congr {e e' : Env} (h : e.tieRank = e'.tieRank) (x y : PqEntry) :
    pqBefore e x y = pqBefore e' x y := by
  have hrank : ∀ z, tieRankOf e z = tieRankOf e' z := fun z => congrArg (List.idxOf z) h
  rw [Bool.eq_iff_iff, pqBefore_iff_toNat, pqBefore_iff_toNat, hrank x, hrank y]

theorem minFrom_congr {e e' : Env} (h : e.tieRank = e'.tieRank) (x : PqEntry) (es : List PqEntry) :
    minFrom e x es = minFrom e' x es := by
  induction es generalizing x with
  | nil => rfl
  | cons y ys ih => rw [minFrom, minFrom, pqBefore_congr h, ih, ih]

/-- Of the environment, the least entry depends on TIEBREAK alone (41_priority_queue.md R86). -/
theorem minEntry_congr {e e' : Env} (h : e.tieRank = e'.tieRank) (es : List PqEntry) :
    minEntry e es = minEntry e' es := by
  cases es with
  | nil => rfl
  | cons x xs => exact congrArg some (minFrom_congr h x xs)

section
variable {s u : State}

theorem endAlike_pqExtractMin (h : SameBuild s u) : EndAlike SameBuild (pqExtractMin s) (pqExtractMin u) := by
  rw [pqExtractMin_eq, pqExtractMin_eq, minEntry_congr h.tieRank, h.queue]
  cases minEntry u.env u.queue.entries with
  | none => exact .raised _ h
  | some e => exact .ok e (h.setQueue _)

theorem endAlike_addAndQueue (n : Node) (h : SameBuild s u) :
    EndAlike SameBuild (addAndQueue n s) (addAndQueue n u) := by
  rw [addAndQueue_eq, addAndQueue_eq, h.queue, h.cnt]
  exact .ok () ((h.add n).setQueue _)

theorem endAlike_addLeaves (xs : List Byte) (h : SameBuild s u) :
    EndAlike SameBuild (addLeaves xs s) (addLeaves xs u) := by
  induction xs generalizing s u with
  | nil => exact .ok () h
  | cons x xs ih =>
    rw [addLeaves_cons, addLeaves_cons, h.ft]
    exact endAlike_bind (endAlike_addAndQueue _ h) fun _ _ _ => ih

theorem endAlike_combine (h : SameBuild s u) : EndAlike SameBuild (combine s) (combine u) :=
  endAlike_bind (endAlike_pqExtractMin h) fun _ _ _ h => endAlike_bind (endAlike_pqExtractMin h) fun _ _ _ =>
    endAlike_addAndQueue _

theorem endAlike_combineAll (k : Nat) (h : SameBuild s u) :
    EndAlike SameBuild (combineAll k s) (combineAll k u) := by
  induction k generalizing s u with
  | zero => exact .ok () h
  | succ k ih =>
    by_cases hlen : s.queue.entries.length < 2
    · rw [combineAll_of_lt hlen, combineAll_of_lt (h.queue ▸ hlen)]
      exact .ok () h
    · have hlen := Nat.not_lt.1 hlen
      rw [combineAll_succ hlen, combineAll_succ (h.queue ▸ hlen)]
      exact endAlike_bind (endAlike_combine h) fun _ _ _ => ih

theorem endAlike_setRoot (r : NodeIx) (h : SameBuild s u) : EndAlike SameBuild (setRoot r s) (setRoot r u) :=
  .ok () (h.setRoot r)

theorem endAlike_buildSingle (x : Byte) (h : SameBuild s u) :
    EndAlike SameBuild (buildSingle x s) (buildSingle x u) := by
  rw [buildSingle, Cmd.run_bind_ok (Cmd.run_getState s), Cmd.run_bind_ok (Cmd.run_getState u), h.ft]
  exact endAlike_bind (.ok () (((h.add _).add _).add _)) fun _ _ _ => endAlike_setRoot _

theorem endAlike_buildGeneral (xs : List Byte) (h : SameBuild s u) :
    EndAlike SameBuild (buildGeneral xs s) (buildGeneral xs u) := by
  refine endAlike_bind (endAlike_addLeaves xs h) fun _ t v h => ?_
  rw [Cmd.run_bind_ok (Cmd.run_getState t), Cmd.run_bind_ok (Cmd.run_getState v), h.queue]
  exact endAlike_bind (endAlike_combineAll _ h) fun _ _ _ h => endAlike_bind (endAlike_pqExtractMin h) fun _ _ _ =>
    endAlike_setRoot _

theorem endAlike_buildFrom (xs : List Byte) (h : SameBuild s u) :
    EndAlike SameBuild (buildFrom xs s) (buildFrom xs u) := by
  match xs with
  | [] => exact endAlike_buildGeneral [] h
  | [x] => exact endAlike_buildSingle x h
  | x :: y :: xs => exact endAlike_buildGeneral (x :: y :: xs) h

theorem endAlike_tbBuild (hft : s.ft = u.ft) (hrank : s.env.tieRank = u.env.tieRank) (hne : presentSyms s.ft ≠ []) :
    EndAlike SameBuild (tbBuild s) (tbBuild u) := by
  rw [tbBuild_of_present hne, tbBuild_of_present (hft ▸ hne), hft]
  exact endAlike_bind (endAlike_buildFrom _ (sameBuild_startBuild hft hrank)) fun _ _ _ h =>
    .ok () (h.setRootValid true)

end

/-- Settles O21: the two runs stay equal in all that TB_BUILD reads, from its start to its end. -/
theorem tbBuildDeterministic : Obligations.TbBuildDeterministic := by
  intro s u hft hrank hne
  have halike := endAlike_tbBuild (s := s.setSeqStep 0#4) (u := u.setSeqStep 0#4) hft hrank hne
  obtain ⟨t, v, ht, hv, h⟩ := finish_of_endAlike halike fun _ _ b h => h.setStatus b
  exact ⟨t, v, ht, hv, h.cnt, h.root, h.records⟩

end Sys2Proof.Machine
end

section
/-! CG_VERIFY (43_code_generator.md R108, R109): what the check of the code table decides, then the command by its needed
flag and by that check. -/
namespace Sys2Proof.Machine

/-! ### The check -/

theorem isPrefix_iff {c d : Code} :
    isPrefix c d = true ↔
      c.len.toNat ≤ d.len.toNat ∧ ∀ i < c.len.toNat, c.bits.getLsbD i = d.bits.getLsbD i := by
  simp [isPrefix, BitVec.le_def]

theorem codesHaveLength_iff {ct : Vector Code 256} :
    codesHaveLength ct = true ↔ ∀ x, (ctAt ct x).valid = true → (ctAt ct x).len ≠ 0#8 := by
  simp [codesHaveLength, mem_allSyms, or_iff_not_imp_left]

theorem codesPrefixFree_iff {ct : Vector Code 256} :
    codesPrefixFree ct = true ↔ ∀ x, (ctAt ct x).valid = true → ∀ y, x ≠ y → (ctAt ct y).valid = true →
      isPrefix (ctAt ct x) (ctAt ct y) ≠ true := by
  simp [codesPrefixFree, mem_allSyms, or_iff_not_imp_left]

theorem codesOk_iff {ct : Vector Code 256} :
    codesOk ct = true ↔ codesHaveLength ct = true ∧ codesPrefixFree ct = true := Bool.and_eq_true_iff

/-! ### The command -/

theorem exec_cgVerify_of_no_codes {s : State} (h : s.codes.valid = false) :
    exec .cgVerify s = .next (ended s ErrKind.notReady.code) :=
  issue_of_raised (Cmd.run_bind_error (need_of_clear (s := s.setSeqStep 0#4) h))

/-- With valid codes CG_VERIFY is the check alone. -/
theorem cgVerify_of_codes {s : State} (h : s.codes.valid = true) : cgVerify s = checkCodes s :=
  Cmd.run_bind_ok (need_of_set h)

theorem exec_cgVerify_of_ok {s : State} (h : s.codes.valid = true) (hok : codesOk s.codes.ct = true) :
    exec .cgVerify s = .next (ended s statusOk) :=
  issue_of_ok ((cgVerify_of_codes (s := s.setSeqStep 0#4) h).trans (if_pos hok))

theorem exec_cgVerify_of_not_ok {s : State} (h : s.codes.valid = true) (hok : codesOk s.codes.ct ≠ true) :
    exec .cgVerify s = .next (ended s ErrKind.internalCheckFailed.code) :=
  issue_of_raised ((cgVerify_of_codes (s := s.setSeqStep 0#4) h).trans (if_neg hok))

/-- Settles O25: with valid codes the answer is the check's, which fails on a code of length 0 and on one code that is a
prefix of another. -/
theorem cgVerifyChecks : Obligations.CgVerifyChecks := by
  refine fun s => ⟨exec_cgVerify_of_no_codes, fun hv ⟨hlen, hpre⟩ => ?_, fun hv hbad => ?_⟩
  · refine exec_cgVerify_of_ok hv (codesOk_iff.2 ⟨codesHaveLength_iff.2 hlen, codesPrefixFree_iff.2 ?_⟩)
    exact fun x hx y hxy hy hp => hpre x y hxy hx hy (isPrefix_iff.1 hp)
  · refine exec_cgVerify_of_not_ok hv fun hok => ?_
    obtain ⟨hlen, hpre⟩ := codesOk_iff.1 hok
    obtain ⟨x, hx, hzero⟩ | ⟨x, y, hxy, hx, hy, hp⟩ := hbad
    · exact codesHaveLength_iff.1 hlen x hx hzero
    · exact codesPrefixFree_iff.1 hpre x hx y hxy hy (isPrefix_iff.2 hp)

end Sys2Proof.Machine
end

section
/-! BW_WRITE_BIT and BW_CLOSE (44_bit_writer.md R116, R118): SinkByte at the end of OUT and where it fails, what a clean
partial byte holds, then each command as a sub-step and when the host issues it. -/
namespace Sys2Proof.Machine

/-! ### One byte to the sink -/

/-- A command whose access fails answers a next state with STATUS IOError (20_memory.md R56). -/
theorem issue_of_ioFailed {c : Cmd Unit} {s t : State} {sp : Space}
    (h : c (s.setSeqStep 0#4) = .error (.ioFailed sp) t) : issue c s = .next (takeFault .ioError t) := by
  rw [issue, h, finish_ioFailed]

theorem sinkByte_of_ioFails {s : State} (v : Byte) (h : ioFails s.env .out s.sink.pos = true) :
    sinkByte v s = .error (.ioFailed .out) (s.setEnv s.env.countAsk) := by
  rw [sinkByte_eq, if_pos h]

theorem Stream.append_eq_of_at_end {x : Stream} (e : Env) (v : Byte) (hp : x.pos = x.len)
    (hl : x.len.toNat < 2 ^ 64 - 1) :
    x.append e v =
      { mem := memWrite x.mem x.len.toNat v, pos := x.len + 1#64, len := x.len + 1#64 } := by
  obtain ⟨hpos, hlen, hmem⟩ := Stream.append_at_end (e := e) v hp hl
  generalize x.append e v = y at hpos hlen hmem ⊢
  cases y
  congr

theorem sinkByte_of_at_end {s : State} (v : Byte) (h : ioFails s.env .out s.sink.pos = false)
    (hp : s.sink.pos = s.sink.len) (hl : s.sink.len.toNat < 2 ^ 64 - 1) :
    sinkByte v s = .ok () ((s.setEnv s.env.countAsk).setSink
      { mem := memWrite s.sink.mem s.sink.len.toNat v, pos := s.sink.len + 1#64, len := s.sink.len + 1#64 }) := by
  rw [sinkByte_eq, if_neg (ne_true_of_eq_false h), Stream.append_eq_of_at_end s.env.countAsk v hp hl]

theorem memRead_memWrite {m : Memory} (a : Nat) (b : Byte) (hm : m.wf) (x : Nat) :
    memRead (memWrite m a b) x = if x = a then b else memRead m x := by
  split
  case isTrue h => rw [h, memRead_memWrite_self a b hm]
  case isFalse h => exact memRead_memWrite_ne b h

/-! ### The byte being assembled -/

/-- The bits of a byte are its first n and the 8 - n after them, most significant first. -/
theorem bytesBits_singleton_eq_append (b : Byte) {n : Nat} (h : n ≤ 8) :
    bytesBits [b] = (List.range n).map (fun j => b.getLsbD (7 - j)) ++
      (List.range (8 - n)).map fun j => b.getLsbD (7 - (n + j)) := by
  have hrange : List.range 8 = List.range n ++ (List.range (8 - n)).map (n + ·) := by
    rw [← List.range_add, Nat.add_sub_cancel' h]
  rw [bytesBits, List.flatMap_singleton, hrange, List.map_append, List.map_map]
  rfl

/-- What a clean writer has not written of its byte is 0 (10_state.md R20). -/
theorem bytesBits_cur_of_clean {w : BitWriter} (h : w.Clean) :
    bytesBits [w.cur] = pendingBits w ++ List.replicate (8 - w.nbits.toNat) false := by
  have hn := w.nbits.isLt
  rw [bytesBits_singleton_eq_append w.cur (n := w.nbits.toNat) (by omega), pendingBits]
  congr 1
  refine List.eq_replicate_iff.2 ⟨by rw [List.length_map, List.length_range], fun b hb => ?_⟩
  obtain ⟨j, hj, rfl⟩ := List.mem_map.1 hb
  have hj := List.mem_range.1 hj
  exact h _ (by omega)

/-- The padding count, as a byte and as the word R0 holds. -/
theorem setWidth_padding_eq_ofNat (n : BitVec 3) :
    (8#8 - n.setWidth 8).setWidth 64 = BitVec.ofNat 64 (8 - n.toNat) := by
  have hn := n.isLt
  apply BitVec.eq_of_toNat_eq
  simp only [BitVec.toNat_setWidth, BitVec.toNat_sub, BitVec.toNat_ofNat]
  omega

/-! ### BW_WRITE_BIT -/

theorem exec_bwWriteBit_of_not_full {s : State} (h : s.bw.nbits ≠ 7#3) :
    exec .bwWriteBit s =
      .next (ended (s.setBw { s.bw.place (opBit s) with nbits := s.bw.nbits + 1#3 }) statusOk) :=
  issue_of_ok (writeBit_eq_place (s := s.setSeqStep 0#4) (opBit s) h)

/-- The eighth bit and its byte out. -/
theorem writeBit_of_full {s t : State} {b : Bool} (h : s.bw.nbits = 7#3)
    (hsent : sinkByte (s.bw.place b).cur (s.setBw (s.bw.place b)) = .ok () t) :
    writeBit b s = .ok () (t.setBw t.bw.flushed) := by
  rw [writeBit_eq_send b h, hsent]

/-- The eighth bit and its byte not out. -/
theorem writeBit_of_full_ioFails {s : State} (b : Bool) (h : s.bw.nbits = 7#3)
    (hio : ioFails s.env .out s.sink.pos = true) :
    writeBit b s = .error (.ioFailed .out) ((s.setBw (s.bw.place b)).setEnv s.env.countAsk) := by
  rw [writeBit_eq_send b h, sinkByte_of_ioFails (s := s.setBw (s.bw.place b)) _ hio]
  rfl

theorem exec_bwWriteBit_of_full {s : State} (h : s.bw.nbits = 7#3) (hio : ioFails s.env .out s.sink.pos = false)
    (hp : s.sink.pos = s.sink.len) (hl : s.sink.len.toNat < 2 ^ 64 - 1) :
    exec .bwWriteBit s = .next (ended
      { s with
        bw := (s.bw.place (opBit s)).flushed,
        sink := { mem := memWrite s.sink.mem s.sink.len.toNat (s.bw.place (opBit s)).cur,
                  pos := s.sink.len + 1#64, len := s.sink.len + 1#64 },
        env := s.env.countAsk } statusOk) :=
  issue_of_ok (writeBit_of_full (s := s.setSeqStep 0#4) h
    (sinkByte_of_at_end (s := (s.setSeqStep 0#4).setBw (s.bw.place (opBit s))) _ hio hp hl))

theorem exec_bwWriteBit_of_full_ioFails {s : State} (h : s.bw.nbits = 7#3)
    (hio : ioFails s.env .out s.sink.pos = true) :
    exec .bwWriteBit s =
      .next (ended ((s.setBw (s.bw.place (opBit s))).setEnv s.env.countAsk) ErrKind.ioError.code) :=
  issue_of_ioFailed (writeBit_of_full_ioFails (s := s.setSeqStep 0#4) (opBit s) h hio)

theorem BitWriter.place_eq_of_full {w : BitWriter} (b : Bool) (h : w.nbits = 7#3) :
    w.place b = { cur := (w.place b).cur, nbits := 7#3, total := w.total + 1 } := by
  rw [← h]
  rfl

/-- Settles O27: the bit's place is `putBit`'s; the command by whether the byte is full, then by its one access. -/
theorem bwWriteBitPlaces : Obligations.BwWriteBitPlaces := fun s => by
  refine ⟨(s.bw.place (opBit s)).cur, fun j hj => getLsbD_putBit _ _ (by omega) hj, exec_bwWriteBit_of_not_full,
    fun h hio hp hl hm => ?_, fun h hio => ?_⟩
  · exact ⟨_, memWrite_wf _ hm s.sink.len.isLt, memRead_memWrite _ _ hm, exec_bwWriteBit_of_full h hio hp hl⟩
  · rw [exec_bwWriteBit_of_full_ioFails h hio, BitWriter.place_eq_of_full _ h]
    rfl

/-! ### BW_CLOSE -/

theorem bwClose_of_aligned {s : State} (h : s.bw.nbits = 0#3) : bwClose s = .ok 0#8 s := by
  rw [bwClose_eq, if_pos h]

/-- The partial byte out. -/
theorem bwClose_of_partial {s t : State} (h : s.bw.nbits ≠ 0#3) (hsent : sinkByte s.bw.cur s = .ok () t) :
    bwClose s = .ok (8#8 - s.bw.nbits.setWidth 8) (t.setBw t.bw.flushed) := by
  rw [bwClose_eq, if_neg h, hsent]

/-- The partial byte not out. -/
theorem bwClose_of_partial_ioFails {s : State} (h : s.bw.nbits ≠ 0#3)
    (hio : ioFails s.env .out s.sink.pos = true) :
    bwClose s = .error (.ioFailed .out) (s.setEnv s.env.countAsk) := by
  rw [bwClose_eq, if_neg h, sinkByte_of_ioFails _ hio]

/-- The host's BW_CLOSE puts the padding count in R0. -/
theorem exec_bwClose_of_ok {s t : State} {pad : Byte} (h : bwClose (s.setSeqStep 0#4) = .ok pad t) :
    exec .bwClose s = .next ((t.setR0 (pad.setWidth 64)).setStatus statusOk) :=
  issue_of_ok (Cmd.run_bind_ok (f := fun p => update fun u => u.setR0 (p.setWidth 64)) h)

theorem exec_bwClose_of_aligned {s : State} (h : s.bw.nbits = 0#3) :
    exec .bwClose s = .next (ended (s.setR0 0#64) statusOk) :=
  exec_bwClose_of_ok (bwClose_of_aligned (s := s.setSeqStep 0#4) h)

theorem exec_bwClose_of_partial {s : State} (h : s.bw.nbits ≠ 0#3) (hio : ioFails s.env .out s.sink.pos = false)
    (hp : s.sink.pos = s.sink.len) (hl : s.sink.len.toNat < 2 ^ 64 - 1) :
    exec .bwClose s = .next (ended
      { s with
        bw := s.bw.flushed,
        sink := { mem := memWrite s.sink.mem s.sink.len.toNat s.bw.cur,
                  pos := s.sink.len + 1#64, len := s.sink.len + 1#64 },
        r0 := BitVec.ofNat 64 (8 - s.bw.nbits.toNat), env := s.env.countAsk } statusOk) := by
  rw [← setWidth_padding_eq_ofNat]
  exact exec_bwClose_of_ok (bwClose_of_partial (s := s.setSeqStep 0#4) h
    (sinkByte_of_at_end (s := s.setSeqStep 0#4) _ hio hp hl))

theorem exec_bwClose_of_partial_ioFails {s : State} (h : s.bw.nbits ≠ 0#3)
    (hio : ioFails s.env .out s.sink.pos = true) :
    exec .bwClose s = .next (ended (s.setEnv s.env.countAsk) ErrKind.ioError.code) :=
  issue_of_ioFailed (Cmd.run_bind_error (bwClose_of_partial_ioFails (s := s.setSeqStep 0#4) h hio))

/-- Settles O30: the command by whether a byte is pending, then by its one access; the padding is the clean writer's. -/
theorem bwClosePads : Obligations.BwClosePads := fun s => by
  refine ⟨exec_bwClose_of_aligned, fun h hio hp hl hm => ?_, exec_bwClose_of_partial_ioFails⟩
  exact ⟨_, memWrite_wf _ hm s.sink.len.isLt, memRead_memWrite _ _ hm, bytesBits_cur_of_clean,
    exec_bwClose_of_partial h hio hp hl⟩

end Sys2Proof.Machine
end

section
/-! BR_READ_BIT (45_bit_reader.md R126, R127): the fetch in each of its cases, ReadBit from it, then the command when the
host issues it. -/
namespace Sys2Proof.Machine

/-! ### One byte from the source -/

theorem srcByte_at_end {s : State} (h : s.src.len ≤ s.src.pos) : srcByte s = .ok none s := by
  rw [srcByte_eq, if_pos h]

theorem srcByte_of_ioFails {s : State} (h : s.src.pos < s.src.len) (hio : ioFails s.env .inp s.src.pos = true) :
    srcByte s = .error (.ioFailed .inp) (s.setEnv s.env.countAsk) := by
  rw [srcByte_eq, if_neg (BitVec.not_le.2 h), if_pos hio]

theorem srcByte_of_pos_lt_len {s : State} (h : s.src.pos < s.src.len)
    (hio : ioFails s.env .inp s.src.pos = false) :
    srcByte s =
      .ok (some (memRead s.src.mem s.src.pos.toNat)) ((s.setEnv s.env.countAsk).setSrc s.src.advance) := by
  rw [srcByte_eq, if_neg (BitVec.not_le.2 h), if_neg (ne_true_of_eq_false hio)]

/-! ### The fetch -/

theorem refill_of_finished {s : State} (h : s.br.finished = true) : refill s = .error (.raised .endOfStream) s := by
  rw [refill_eq, if_pos h]

theorem refill_at_end {s : State} (hf : s.br.finished = false) (h : s.src.len ≤ s.src.pos) :
    refill s = .error (.raised .endOfStream) s.setFinished := by
  rw [refill_eq, if_neg (ne_true_of_eq_false hf), srcByte_at_end h]

theorem refill_of_ioFails {s : State} (hf : s.br.finished = false) (h : s.src.pos < s.src.len)
    (hio : ioFails s.env .inp s.src.pos = true) :
    refill s = .error (.ioFailed .inp) (s.setEnv s.env.countAsk) := by
  rw [refill_eq, if_neg (ne_true_of_eq_false hf), srcByte_of_ioFails h hio]

/-- The state after the byte at IN_POS is fetched, with `left` of its bits still to give. -/
def State.fetched (s : State) (left : BitVec 4) : State :=
  { s with
    br := { cur := memRead s.src.mem s.src.pos.toNat, left := left, finished := false },
    src := s.src.advance, env := s.env.countAsk }

@[simp] theorem State.fetched_br_left (s : State) (left : BitVec 4) : (s.fetched left).br.left = left := rfl

theorem refill_of_pos_lt_len {s : State} (hf : s.br.finished = false) (h : s.src.pos < s.src.len)
    (hio : ioFails s.env .inp s.src.pos = false) : refill s = .ok () (s.fetched 8#4) := by
  rw [refill_eq, if_neg (ne_true_of_eq_false hf), srcByte_of_pos_lt_len h hio, State.fetched, ← hf]
  rfl

/-! ### ReadBit -/

theorem takeBit_of_le {s : State} (h : s.br.left ≤ 8#4) :
    takeBit s = .ok (s.br.cur.getLsbD (s.br.left.toNat - 1)) (s.setBr { s.br with left := s.br.left - 1#4 }) := by
  rw [takeBit_eq, if_neg (BitVec.not_lt.2 h)]

theorem readBit_of_left {s : State} (h0 : s.br.left ≠ 0#4) (h8 : s.br.left ≤ 8#4) :
    readBit s = .ok (s.br.cur.getLsbD (s.br.left.toNat - 1)) (s.setBr { s.br with left := s.br.left - 1#4 }) := by
  rw [readBit_eq, if_neg h0, takeBit_of_le h8]

/-- The first bit of the byte fetched is its bit 7. -/
theorem readBit_of_pos_lt_len {s : State} (h0 : s.br.left = 0#4) (hf : s.br.finished = false)
    (h : s.src.pos < s.src.len) (hio : ioFails s.env .inp s.src.pos = false) :
    readBit s = .ok ((memRead s.src.mem s.src.pos.toNat).getLsbD 7) (s.fetched 7#4) := by
  rw [readBit_eq, if_pos h0, Cmd.run_bind_ok (refill_of_pos_lt_len hf h hio), takeBit_of_le (BitVec.le_refl 8#4),
    State.fetched_br_left]
  rfl

/-- Where the fetch stops, ReadBit stops there. -/
theorem readBit_of_refill_error {s t : State} {e : Stop} (h0 : s.br.left = 0#4) (h : refill s = .error e t) :
    readBit s = .error e t := by
  rw [readBit_eq, if_pos h0, Cmd.run_bind_error h]

/-! ### BR_READ_BIT -/

/-- The host's BR_READ_BIT puts the bit in R0. -/
theorem exec_brReadBit_of_ok {s t : State} {b : Bool} (h : readBit (s.setSeqStep 0#4) = .ok b t) :
    exec .brReadBit s = .next ((t.setR0 (bitWord b)).setStatus statusOk) :=
  issue_of_ok (Cmd.run_bind_ok (f := fun b => update fun u => u.setR0 (bitWord b)) h)

theorem exec_brReadBit_of_raised {s t : State} {e : ErrKind}
    (h : readBit (s.setSeqStep 0#4) = .error (.raised e) t) : exec .brReadBit s = .next (takeFault e t) :=
  issue_of_raised (Cmd.run_bind_error h)

theorem exec_brReadBit_of_ioFailed {s t : State} {sp : Space}
    (h : readBit (s.setSeqStep 0#4) = .error (.ioFailed sp) t) : exec .brReadBit s = .next (takeFault .ioError t) :=
  issue_of_ioFailed (Cmd.run_bind_error h)

theorem exec_brReadBit_of_left {s : State} (h0 : s.br.left ≠ 0#4) (h8 : s.br.left ≤ 8#4) :
    exec .brReadBit s = .next (ended
      ((s.setBr { s.br with left := s.br.left - 1#4 }).setR0 (bitWord (s.br.cur.getLsbD (s.br.left.toNat - 1))))
      statusOk) :=
  exec_brReadBit_of_ok (readBit_of_left (s := s.setSeqStep 0#4) h0 h8)

theorem exec_brReadBit_of_pos_lt_len {s : State} (h0 : s.br.left = 0#4) (hf : s.br.finished = false)
    (h : s.src.pos < s.src.len) (hio : ioFails s.env .inp s.src.pos = false) :
    exec .brReadBit s = .next (ended
      ((s.fetched 7#4).setR0 (bitWord ((memRead s.src.mem s.src.pos.toNat).getLsbD 7))) statusOk) :=
  exec_brReadBit_of_ok (readBit_of_pos_lt_len (s := s.setSeqStep 0#4) h0 hf h hio)

theorem exec_brReadBit_of_ioFails {s : State} (h0 : s.br.left = 0#4) (hf : s.br.finished = false)
    (h : s.src.pos < s.src.len) (hio : ioFails s.env .inp s.src.pos = true) :
    exec .brReadBit s = .next (ended (s.setEnv s.env.countAsk) ErrKind.ioError.code) :=
  exec_brReadBit_of_ioFailed
    (readBit_of_refill_error (s := s.setSeqStep 0#4) h0 (refill_of_ioFails (s := s.setSeqStep 0#4) hf h hio))

theorem exec_brReadBit_at_end {s : State} (h0 : s.br.left = 0#4) (hf : s.br.finished = false)
    (h : s.src.len ≤ s.src.pos) :
    exec .brReadBit s = .next (ended s.setFinished ErrKind.endOfStream.code) :=
  exec_brReadBit_of_raised
    (readBit_of_refill_error (s := s.setSeqStep 0#4) h0 (refill_at_end (s := s.setSeqStep 0#4) hf h))

theorem exec_brReadBit_of_finished {s : State} (h0 : s.br.left = 0#4) (hf : s.br.finished = true) :
    exec .brReadBit s = .next (ended s ErrKind.endOfStream.code) :=
  exec_brReadBit_of_raised
    (readBit_of_refill_error (s := s.setSeqStep 0#4) h0 (refill_of_finished (s := s.setSeqStep 0#4) hf))

/-- Settles O32: a bit in hand, else the fetch in its four cases, each the command's whole next state. -/
theorem brReadBitGivesBit : Obligations.BrReadBitGivesBit := fun _ =>
  ⟨exec_brReadBit_of_left,
    fun h0 hf h => ⟨exec_brReadBit_of_pos_lt_len h0 hf h, exec_brReadBit_of_ioFails h0 hf h⟩,
    exec_brReadBit_at_end, exec_brReadBit_of_finished⟩

end Sys2Proof.Machine
end

section
/-! CF_WRITE_HEADER and CF_READ_HEADER (46_container_format.md R131 to R137): bytes sent one after the other to the end of
OUT, the next bytes of IN read field by field, then the header that the first command leaves read by the second. -/
namespace Sys2Proof.Machine

/-! ### Bytes to the end of OUT -/

/-- Where OUT ends there is room for n bytes, and none of the n writes fails. -/
structure CanAppend (s : State) (n : Nat) : Prop where
  noneFails : NoneFails s (writeAsks s.sink.pos n)
  atEnd : s.sink.pos = s.sink.len
  room : s.sink.len.toNat + n < 2 ^ 64
  wf : s.sink.mem.wf

/-- The state after SinkByte(v) has written (20_memory.md R48). -/
def State.appendByte (s : State) (v : Byte) : State :=
  (s.setEnv s.env.countAsk).setSink (s.sink.append s.env.countAsk v)

/-- One byte written where there is room for it. -/
theorem sinkByte_of_canAppend {s : State} {n : Nat} (v : Byte) (h : CanAppend s (n + 1)) :
    sinkByte v s = .ok () (s.appendByte v) ∧ CanAppend (s.appendByte v) n := by
  obtain ⟨hnone, hend, hroom, hwf⟩ := h
  obtain ⟨hpos, hlen, -⟩ := Stream.append_at_end (e := s.env.countAsk) v hend (by omega)
  rw [writeAsks_succ, noneFails_cons (t := s.appendByte v) rfl] at hnone
  obtain ⟨hio, hnone⟩ := hnone
  have hlen' : (s.appendByte v).sink.len.toNat = s.sink.len.toNat + 1 := by
    rw [State.appendByte, State.setSink_sink, hlen, BitVec.toNat_add, BitVec.toNat_ofNat]
    omega
  rw [hend, ← hpos] at hnone
  refine ⟨?_, hnone, hpos.trans hlen.symm, by omega, Stream.append_wf _ v hwf⟩
  rw [sinkByte_eq, if_neg (ne_true_of_eq_false hio)]
  rfl

theorem sinkBytes_of_canAppend {s : State} {bs : List Byte} (h : CanAppend s bs.length) :
    sinkBytes bs s = .ok () (bs.foldl State.appendByte s) := by
  induction bs generalizing s with
  | nil => rfl
  | cons b bs ih =>
    obtain ⟨hb, h⟩ := sinkByte_of_canAppend b h
    rw [sinkBytes_cons, Cmd.run_bind_ok hb, ih h, List.foldl_cons]

theorem outBytes_foldl_appendByte {s : State} {bs : List Byte} (h : CanAppend s bs.length) :
    outBytes (bs.foldl State.appendByte s) = outBytes s ++ bs := by
  induction bs generalizing s with
  | nil => exact (List.append_nil _).symm
  | cons b bs ih =>
    have hroom : s.sink.len.toNat + (bs.length + 1) < 2 ^ 64 := h.room
    have hb : outBytes (s.appendByte b) = outBytes s ++ [b] := outBytes_append rfl h.atEnd (by omega) h.wf
    obtain ⟨-, h⟩ := sinkByte_of_canAppend b h
    rw [List.foldl_cons, ih h, hb, List.append_assoc, List.singleton_append]

/-! ### CF_WRITE_HEADER -/

theorem opPadding_eq_extractLsb (s : State) : opPadding s = s.a.extractLsb 7 0 :=
  BitVec.setWidth_eq_extractLsb' (by decide)

theorem headerBytes_eq_headerOf (ft : Vector FtEntry 256) (size : Word) (pad : Byte) :
    headerBytes ft size pad = headerOf size (BitVec.ofNat 8 (ftN ft)) pad (entriesOf ft) := by
  rw [headerBytes, headerOf, entriesOf, List.flatMap_map]
  rfl

theorem length_entriesOf (ft : Vector FtEntry 256) : (entriesOf ft).length = ftN ft := List.length_map _

theorem length_hdrEntryBytes (e : HdrEntry) : (hdrEntryBytes e).length = 5 := by
  rw [hdrEntryBytes, List.length_cons, length_be32Bytes]

theorem headerOf_eq_cons (size : Word) (num pad : Byte) (ents : List HdrEntry) :
    headerOf size num pad ents =
      Config.magic0 :: Config.magic1 :: (be64Bytes size ++ num :: pad :: ents.flatMap hdrEntryBytes) := by
  rw [headerOf, List.append_assoc, List.append_assoc]
  rfl

theorem length_headerOf (size : Word) (num pad : Byte) (ents : List HdrEntry) :
    (headerOf size num pad ents).length = 12 + 5 * ents.length := by
  have hents : (ents.flatMap hdrEntryBytes).length = ents.length * 5 := by
    simp [List.length_flatMap, length_hdrEntryBytes]
  rw [headerOf_eq_cons, List.length_cons, List.length_cons, List.length_append, length_be64Bytes, List.length_cons,
    List.length_cons, hents]
  omega

/-- The refusals, then the bytes (46_container_format.md R131, R132). -/
theorem cfWriteHeader_eq (pad : Byte) (size : Word) (s : State) :
    cfWriteHeader pad size s =
      if Config.maxSyms < ftN s.ft then .error (.raised .alphabetTooLarge) s
      else if 7#8 < pad then .error (.raised .badOperand) s
      else sinkBytes (headerBytes s.ft size pad) s := by
  rw [cfWriteHeader, Cmd.run_bind_ok (Cmd.run_getState s)]
  split
  · rfl
  · split <;> rfl

theorem outBytes_setStatus (s : State) (v : Byte) : outBytes (s.setStatus v) = outBytes s := rfl

/-- A CF_WRITE_HEADER that ends with Ok was not refused: it has sent the header's bytes. -/
theorem exec_cfWriteHeader_of_ok {s t : State} (hio : s.env.ioFaults = []) (hend : s.sink.pos = s.sink.len)
    (hroom : s.sink.len.toNat + 2048 < 2 ^ 64) (hwf : s.sink.mem.wf) (ht : exec .cfWriteHeader s = .next t)
    (hok : t.status = statusOk) :
    ftN s.ft ≤ 255 ∧ outBytes t = outBytes s ++
      headerOf s.b (BitVec.ofNat 8 (ftN s.ft)) (s.a.extractLsb 7 0) (entriesOf s.ft) := by
  have ht : finish (cfWriteHeader (opPadding s) s.b (s.setSeqStep 0#4)) = .next t := ht
  rw [cfWriteHeader_eq] at ht
  split at ht
  case isTrue =>
    obtain rfl := Host.Outcome.next.inj ht
    exact absurd hok (by decide : ErrKind.alphabetTooLarge.code ≠ statusOk)
  case isFalse hsyms =>
    have hsyms : ftN s.ft ≤ 255 := Nat.not_lt.1 hsyms
    split at ht
    case isTrue =>
      obtain rfl := Host.Outcome.next.inj ht
      exact absurd hok (by decide : ErrKind.badOperand.code ≠ statusOk)
    case isFalse =>
      rw [headerBytes_eq_headerOf, opPadding_eq_extractLsb] at ht
      have happ : CanAppend (s.setSeqStep 0#4)
          (headerOf s.b (BitVec.ofNat 8 (ftN s.ft)) (s.a.extractLsb 7 0) (entriesOf s.ft)).length := by
        rw [length_headerOf, length_entriesOf]
        exact ⟨noneFails_of_nil hio _, hend, by rw [State.setSeqStep_sink]; omega, hwf⟩
      rw [State.setSeqStep_ft, sinkBytes_of_canAppend happ] at ht
      obtain rfl := Host.Outcome.next.inj ht
      exact ⟨hsyms, (outBytes_setStatus _ _).trans (outBytes_foldl_appendByte happ)⟩

/-! ### Bytes from IN -/

/-- The state after the next n bytes of IN are read (20_memory.md R47). -/
def State.readPast (s : State) (n : Nat) : State :=
  (s.setSrc { s.src with pos := s.src.pos + BitVec.ofNat 64 n }).setEnv (askedMore s n)

@[simp] theorem State.readPast_ft (s : State) (n : Nat) : (s.readPast n).ft = s.ft := rfl
@[simp] theorem State.readPast_hdr (s : State) (n : Nat) : (s.readPast n).hdr = s.hdr := rfl
@[simp] theorem State.setHdr_readPast (s : State) (x : Header) (n : Nat) :
    (s.setHdr x).readPast n = (s.readPast n).setHdr x := rfl
@[simp] theorem State.setFt_readPast (s : State) (x : Vector FtEntry 256) (n : Nat) :
    (s.setFt x).readPast n = (s.readPast n).setFt x := rfl

theorem State.setFt_setHdr (s : State) (x : Vector FtEntry 256) (y : Header) :
    (s.setFt x).setHdr y = (s.setHdr y).setFt x := rfl

@[simp] theorem State.readPast_readPast (s : State) (m n : Nat) : (s.readPast m).readPast n = s.readPast (m + n) := by
  simp [State.readPast, State.setSrc, State.setEnv, askedMore, BitVec.ofNat_add, BitVec.add_assoc, Nat.add_assoc]

theorem State.readPast_zero (s : State) : s.readPast 0 = s := by
  simp [State.readPast, State.setSrc, State.setEnv]

/-- These bytes are the next of IN, and none of their reads fails. -/
structure CanRead (s : State) (bs : List Byte) : Prop where
  noneFails : NoneFails s (readAsks s.src.pos bs.length)
  next : bs <+: unread s

theorem CanRead.setHdr {s : State} {bs : List Byte} (h : CanRead s bs) (x : Header) : CanRead (s.setHdr x) bs :=
  ⟨h.noneFails, h.next⟩

theorem CanRead.setFt {s : State} {bs : List Byte} (h : CanRead s bs) (x : Vector FtEntry 256) :
    CanRead (s.setFt x) bs :=
  ⟨h.noneFails, h.next⟩

/-- Where a byte is unread, it is the one at IN_POS, and the next ones are unread after it. -/
theorem unread_eq_cons {s : State} {b : Byte} {bs : List Byte} (h : unread s = b :: bs) :
    s.src.pos < s.src.len ∧ memRead s.src.mem s.src.pos.toNat = b ∧ unread (s.readPast 1) = bs := by
  have hlen : (unread s).length = bytesLeft s := length_memBytes _ _ _
  rw [h, List.length_cons] at hlen
  have hlt : ¬ s.src.len ≤ s.src.pos := by
    rw [BitVec.le_def]
    rw [bytesLeft] at hlen
    omega
  have hnext := bytesLeft_advance hlt (s.readPast 1) rfl
  have hpos : (s.readPast 1).src.pos.toNat = s.src.pos.toNat + 1 := Stream.advance_pos hlt
  rw [unread, ← hnext, memBytes, ← hpos] at h
  obtain ⟨hread, hrest⟩ := List.cons.inj h
  exact ⟨BitVec.not_le.1 hlt, hread, hrest⟩

/-- One byte read of those that can be. -/
theorem needByte_of_canRead {s : State} {b : Byte} {bs : List Byte} (h : CanRead s (b :: bs)) :
    needByte s = .ok b (s.readPast 1) ∧ CanRead (s.readPast 1) bs := by
  obtain ⟨hnone, rest, hrest⟩ := h
  obtain ⟨hlt, hread, hnext⟩ := unread_eq_cons hrest.symm
  rw [List.length_cons, readAsks_succ, noneFails_cons (t := s.readPast 1) rfl] at hnone
  obtain ⟨hio, hnone⟩ := hnone
  refine ⟨?_, hnone, rest, hnext.symm⟩
  rw [needByte_eq, srcByte_of_pos_lt_len hlt hio, hread]
  rfl

theorem needBytes_of_canRead {s : State} {bs cs : List Byte} (h : CanRead s (bs ++ cs)) :
    needBytes bs.length s = .ok bs (s.readPast bs.length) ∧ CanRead (s.readPast bs.length) cs := by
  induction bs generalizing s with
  | nil => exact s.readPast_zero.symm ▸ ⟨rfl, h⟩
  | cons b bs ih =>
    obtain ⟨hb, h⟩ := needByte_of_canRead h
    obtain ⟨hbs, h⟩ := ih h
    rw [State.readPast_readPast, Nat.add_comm] at hbs h
    refine ⟨?_, h⟩
    rw [List.length_cons, needBytes_succ, Cmd.run_bind_ok hb, Cmd.run_bind_ok hbs]
    rfl

/-! ### CF_READ_HEADER -/

/-- HDR_ENT after these entries are committed from index i up (46_container_format.md R133). -/
def hdrEntPutAll (ent : Vector HdrEntry 255) : Nat → List HdrEntry → Vector HdrEntry 255
  | _, [] => ent
  | i, e :: es => hdrEntPutAll (hdrEntPut ent i e) (i + 1) es

/-- FT after an entry is committed (46_container_format.md R134). -/
def ftPutEntry (ft : Vector FtEntry 256) (e : HdrEntry) : Vector FtEntry 256 :=
  ftPut ft e.sym { present := true, count := e.freq }

theorem getElem?_hdrEntPutAll (ent : Vector HdrEntry 255) {i : Nat} {es : List HdrEntry} (h : i + es.length ≤ 255)
    (j : Nat) :
    (hdrEntPutAll ent i es)[j]? = if i ≤ j ∧ j < i + es.length then es[j - i]? else ent[j]? := by
  induction es generalizing ent i with
  | nil =>
    rw [hdrEntPutAll, List.length_nil, if_neg (by omega)]
  | cons e es ih =>
    rw [List.length_cons] at h ⊢
    rw [hdrEntPutAll, ih _ (by omega), hdrEntPut, Vector.getElem?_setIfInBounds]
    obtain hlt | rfl | hgt := Nat.lt_trichotomy i j
    · obtain ⟨k, rfl⟩ : ∃ k, j = i + 1 + k := ⟨j - (i + 1), by omega⟩
      have hk : i + 1 + k - i = k + 1 := by omega
      rw [if_neg (by omega : ¬ i = i + 1 + k), hk, List.getElem?_cons_succ, Nat.add_sub_cancel_left]
      exact if_congr (by omega) rfl rfl
    · rw [if_neg (by omega), if_pos rfl, if_pos (by omega), if_pos (by omega), Nat.sub_self, List.getElem?_cons_zero]
    · rw [if_neg (by omega), if_neg (by omega), if_neg (by omega)]

theorem readEntry_of_canRead {s : State} {e : HdrEntry} {bs : List Byte} (i : Nat)
    (h : CanRead s (hdrEntryBytes e ++ bs)) :
    readEntry i s = .ok () (((s.readPast 5).setHdr { s.hdr with ent := hdrEntPut s.hdr.ent i e }).setFt
      (ftPutEntry s.ft e)) ∧ CanRead (s.readPast 5) bs := by
  obtain ⟨hsym, h⟩ := needByte_of_canRead h
  obtain ⟨hfreq, h⟩ := needBytes_of_canRead h
  rw [length_be32Bytes, State.readPast_readPast] at hfreq h
  refine ⟨?_, h⟩
  rw [readEntry, Cmd.run_bind_ok hsym, Cmd.run_bind_ok hfreq, Cmd.run_update, be32Value_be32Bytes]
  rfl

theorem readEntries_of_canRead {s : State} {es : List HdrEntry} (i : Nat)
    (h : CanRead s (es.flatMap hdrEntryBytes)) :
    readEntries i es.length s = .ok () (((s.readPast (5 * es.length)).setHdr
      { s.hdr with ent := hdrEntPutAll s.hdr.ent i es }).setFt (es.foldl ftPutEntry s.ft)) := by
  induction es generalizing s i with
  | nil => exact congrArg (EStateM.Result.ok ()) s.readPast_zero.symm
  | cons e es ih =>
    obtain ⟨he, h⟩ := readEntry_of_canRead i h
    have hlen : 5 * (es.length + 1) = 5 + 5 * es.length := by omega
    rw [List.length_cons, readEntries_succ, Cmd.run_bind_ok he, ih _ ((h.setHdr _).setFt _), hlen]
    simp [hdrEntPutAll, State.setFt_setHdr]

theorem readFields_of_canRead {s : State} {z : Word} {n p : Byte} {es : List HdrEntry} (hn : es.length = n.toNat)
    (h : CanRead s (be64Bytes z ++ n :: p :: es.flatMap hdrEntryBytes)) :
    readFields s = .ok () (((s.readPast (10 + 5 * es.length)).setHdr
      { magic := s.hdr.magic, size := z, num := n, pad := p, ent := hdrEntPutAll s.hdr.ent 0 es, valid := true }).setFt
      (es.foldl ftPutEntry s.ft)) := by
  obtain ⟨hz, h⟩ := needBytes_of_canRead h
  rw [length_be64Bytes] at hz h
  have hpad : CanRead (s.readPast 9) (p :: es.flatMap hdrEntryBytes) := by simpa using (needByte_of_canRead h).2
  have hents : CanRead (s.readPast 10) (es.flatMap hdrEntryBytes) := by simpa using (needByte_of_canRead hpad).2
  rw [readFields, Cmd.run_bind_ok hz, be64Value_be64Bytes, Cmd.run_bind_ok (Cmd.run_update _ _),
    Cmd.run_bind_ok (needByte_of_canRead (h.setHdr _)).1, Cmd.run_bind_ok (Cmd.run_update _ _),
    State.setHdr_readPast, State.readPast_readPast, State.setHdr_setHdr,
    Cmd.run_bind_ok (needByte_of_canRead (hpad.setHdr _)).1, Cmd.run_bind_ok (Cmd.run_update _ _),
    State.setHdr_readPast, State.readPast_readPast, State.setHdr_setHdr, ← hn,
    Cmd.run_bind_ok (readEntries_of_canRead 0 (hents.setHdr _))]
  simp [State.setHdrValid, State.setFt_setHdr]

theorem cfReadHeader_of_canRead {s : State} {z : Word} {n p : Byte} {es : List HdrEntry}
    (hn : es.length = n.toNat) (h : CanRead s (headerOf z n p es)) :
    cfReadHeader s = .ok () (((s.dropTree.readPast (12 + 5 * es.length)).setHdr
      { magic := Config.magic0 ++ Config.magic1, size := z, num := n, pad := p
        ent := hdrEntPutAll s.hdr.ent 0 es, valid := true }).setFt (tableOf es)) := by
  have h0 : CanRead (clearForHeader s) (Config.magic0 :: Config.magic1 ::
      (be64Bytes z ++ n :: p :: es.flatMap hdrEntryBytes)) := headerOf_eq_cons z n p es ▸ ⟨h.noneFails, h.next⟩
  obtain ⟨hm0, h⟩ := needByte_of_canRead h0
  obtain ⟨hm1, h⟩ := needByte_of_canRead h
  rw [cfReadHeader, Cmd.run_bind_ok (Cmd.run_update _ _), Cmd.run_bind_ok hm0, Cmd.run_bind_ok hm1,
    Cmd.run_bind_ok (Cmd.run_update _ _), if_neg (by decide), readFields_of_canRead hn (h.setHdr _),
    State.readPast_readPast, State.setHdr_readPast, State.readPast_readPast, ← Nat.add_assoc]
  rfl

theorem exec_cfReadHeader_of_canRead {s : State} {z : Word} {n p : Byte} {es : List HdrEntry}
    (hn : es.length = n.toNat) (h : CanRead s (headerOf z n p es)) :
    exec .cfReadHeader s = .next (ended (((s.dropTree.readPast (12 + 5 * es.length)).setHdr
      { magic := Config.magic0 ++ Config.magic1, size := z, num := n, pad := p
        ent := hdrEntPutAll s.hdr.ent 0 es, valid := true }).setFt (tableOf es)) statusOk) :=
  issue_of_ok (cfReadHeader_of_canRead (s := s.setSeqStep 0#4) hn ⟨h.noneFails, h.next⟩)

/-! ### The round trip -/

theorem ftAt_foldl_ftPutEntry (ft acc : Vector FtEntry 256) (xs : List Byte) (x : Byte) :
    ftAt ((xs.map fun y => { sym := y, freq := (ftAt ft y).count }).foldl ftPutEntry acc) x =
      if x ∈ xs then { present := true, count := (ftAt ft x).count } else ftAt acc x := by
  induction xs generalizing acc with
  | nil => simp
  | cons y ys ih =>
    rw [List.map_cons, List.foldl_cons, ih, ftPutEntry, ftAt_ftPut]
    by_cases hx : x = y
    · simp [hx]
    · simp [hx]

/-- The entries of a canonical table make it again (46_container_format.md R137). -/
theorem tableOf_entriesOf {ft : Vector FtEntry 256} (h : FtCanonical ft) : tableOf (entriesOf ft) = ft := by
  refine ft_ext fun x => (ftAt_foldl_ftPutEntry ft ftEmpty (presentSyms ft) x).trans ?_
  split
  case isTrue hx => rw [← mem_presentSyms.1 hx]
  case isFalse hx =>
    have hx : (ftAt ft x).present = false := eq_false_of_ne_true (mt mem_presentSyms.2 hx)
    rw [ftAt_ftEmpty, FtEntry.empty, ← hx, ← h x hx]

/-- Settles O38: the bytes appended are the header of the table's entries, which CF_READ_HEADER reads back; a canonical
table is the table of its entries. -/
theorem headerRoundTrip : Obligations.HeaderRoundTrip := by
  intro s t u h hsio hcanon hend hroom hwf ht hok hout huio hu
  obtain ⟨hsyms, hbytes⟩ := exec_cfWriteHeader_of_ok hsio hend hroom hwf ht hok
  obtain rfl := List.append_cancel_left (hout.symm.trans hbytes)
  have hnum : (BitVec.ofNat 8 (ftN s.ft)).toNat = ftN s.ft := Nat.mod_eq_of_lt (by omega)
  have hn := (length_entriesOf s.ft).trans hnum.symm
  have hread : CanRead u (headerOf s.b (BitVec.ofNat 8 (ftN s.ft)) (s.a.extractLsb 7 0) (entriesOf s.ft)) :=
    ⟨noneFails_of_nil huio _, [], (List.append_nil _).trans hu.symm⟩
  refine ⟨_, exec_cfReadHeader_of_canRead hn hread, rfl, rfl, rfl, hnum, rfl, tableOf_entriesOf hcanon, fun i hi => ?_⟩
  have hent := getElem?_hdrEntPutAll u.hdr.ent (i := 0) (es := entriesOf s.ft) (by rw [length_entriesOf]; omega) i
  rw [length_entriesOf, if_pos ⟨Nat.zero_le i, by omega⟩] at hent
  exact hent

end Sys2Proof.Machine
end

section
/-! PATCH_PADDING (47_compress_sequencer.md R145, 90_conflicts.md C7): its two refusals in their order and its one access
to byte 11 of OUT, then the command when the host issues it. -/
namespace Sys2Proof.Machine

/-! ### One byte overwritten in the sink -/

theorem sinkPatch_of_ioFails {s : State} {off : Word} (v : Byte) (h : ioFails s.env .out off = true) :
    sinkPatch off v s = .error (.ioFailed .out) (s.setEnv s.env.countAsk) := by
  rw [sinkPatch_eq, if_pos h]

theorem sinkPatch_of_not_ioFails {s : State} {off : Word} (v : Byte) (h : ioFails s.env .out off = false) :
    sinkPatch off v s = .ok () ((s.setEnv s.env.countAsk).setSink (s.sink.patch off v)) := by
  rw [sinkPatch_eq, if_neg (ne_true_of_eq_false h)]

/-! ### The checks -/

theorem patchPadding_of_pad_gt {s : State} {pad : Byte} (h : 7#8 < pad) :
    patchPadding pad s = .error (.raised .badOperand) s := by
  rw [patchPadding_eq, if_pos h]

theorem patchPadding_of_len_le {s : State} {pad : Byte} (hp : pad ≤ 7#8) (hl : s.sink.len ≤ Config.padOffset) :
    patchPadding pad s = .error (.raised .notReady) s := by
  rw [patchPadding_eq, if_neg (BitVec.not_lt.2 hp), if_pos hl]

/-- Where both checks pass, what is left is the access. -/
theorem patchPadding_eq_sinkPatch {s : State} {pad : Byte} (hp : pad ≤ 7#8) (hl : Config.padOffset < s.sink.len) :
    patchPadding pad s = sinkPatch Config.padOffset pad s := by
  rw [patchPadding_eq, if_neg (BitVec.not_lt.2 hp), if_neg (BitVec.not_le.2 hl)]

/-! ### PATCH_PADDING -/

theorem exec_patchPadding_of_pad_gt {s : State} (h : 7#8 < opPadding s) :
    exec .patchPadding s = .next (ended s ErrKind.badOperand.code) :=
  issue_of_raised (patchPadding_of_pad_gt (s := s.setSeqStep 0#4) h)

theorem exec_patchPadding_of_len_le {s : State} (hp : opPadding s ≤ 7#8) (hl : s.sink.len ≤ Config.padOffset) :
    exec .patchPadding s = .next (ended s ErrKind.notReady.code) :=
  issue_of_raised (patchPadding_of_len_le (s := s.setSeqStep 0#4) hp hl)

theorem exec_patchPadding_of_not_ioFails {s : State} (hp : opPadding s ≤ 7#8) (hl : Config.padOffset < s.sink.len)
    (hio : ioFails s.env .out Config.padOffset = false) :
    exec .patchPadding s = .next (ended
      ((s.setEnv s.env.countAsk).setSink (s.sink.patch Config.padOffset (opPadding s))) statusOk) :=
  issue_of_ok ((patchPadding_eq_sinkPatch (s := s.setSeqStep 0#4) hp hl).trans
    (sinkPatch_of_not_ioFails (s := s.setSeqStep 0#4) _ hio))

theorem exec_patchPadding_of_ioFails {s : State} (hp : opPadding s ≤ 7#8) (hl : Config.padOffset < s.sink.len)
    (hio : ioFails s.env .out Config.padOffset = true) :
    exec .patchPadding s = .next (ended (s.setEnv s.env.countAsk) ErrKind.ioError.code) :=
  issue_of_ioFailed ((patchPadding_eq_sinkPatch (s := s.setSeqStep 0#4) hp hl).trans
    (sinkPatch_of_ioFails (s := s.setSeqStep 0#4) _ hio))

/-- Settles O44: the two refusals, then the access by whether it fails; where it does not, the next memory of OUT is the
old one with byte 11 written. -/
theorem patchPaddingWrites : Obligations.PatchPaddingWrites := fun s => by
  rw [← opPadding_eq_extractLsb]
  refine ⟨exec_patchPadding_of_pad_gt, exec_patchPadding_of_len_le, fun hp hl hm hio => ?_,
    exec_patchPadding_of_ioFails⟩
  exact ⟨_, memWrite_wf _ hm Config.padOffset.isLt, memRead_memWrite _ _ hm, exec_patchPadding_of_not_ioFails hp hl hio⟩

end Sys2Proof.Machine
end

section
/-! The verifier (49_verifier_boundary.md R171): what the search for a difference finds in two sequences of one length,
then each answer. -/
namespace Sys2Proof.Machine

/-! ### The first difference -/

theorem firstDifference_eq_none {xs ys : List Byte} (k : Nat) (h : xs.length = ys.length) :
    firstDifference k xs ys = none ↔ xs = ys := by
  induction xs generalizing ys k with
  | nil => simp [firstDifference, List.eq_nil_of_length_eq_zero h.symm]
  | cons x xs ih =>
    obtain ⟨y, ys, rfl⟩ := List.exists_cons_of_length_eq_add_one h.symm
    rw [firstDifference, List.cons.injEq]
    split
    case isTrue hxy => rw [ih _ (Nat.succ.inj h), and_iff_right hxy]
    case isFalse hxy => simp [hxy]

/-- Counted from k, the offset found is k + i for the first i where the sequences differ. -/
theorem firstDifference_eq_some {xs ys : List Byte} {k m : Nat} (h : xs.length = ys.length) :
    firstDifference k xs ys = some m ↔ ∃ i, m = k + i ∧ xs[i]? ≠ ys[i]? ∧ ∀ j, j < i → xs[j]? = ys[j]? := by
  induction xs generalizing ys k with
  | nil => simp [firstDifference, List.eq_nil_of_length_eq_zero h.symm]
  | cons x xs ih =>
    obtain ⟨y, ys, rfl⟩ := List.exists_cons_of_length_eq_add_one h.symm
    rw [firstDifference]
    split
    case isTrue hxy =>
      rw [ih (Nat.succ.inj h)]
      constructor
      · rintro ⟨i, rfl, hne, heq⟩
        refine ⟨i + 1, by omega, hne, fun j hj => ?_⟩
        cases j with
        | zero => exact congrArg some hxy
        | succ j => exact heq j (by omega)
      · rintro ⟨_ | i, rfl, hne, heq⟩
        · exact absurd (congrArg some hxy) hne
        · exact ⟨i, by omega, hne, fun j hj => heq (j + 1) (by omega)⟩
    case isFalse hxy =>
      constructor
      · intro hm
        exact ⟨0, (Option.some.inj hm).symm, fun he => hxy (Option.some.inj he), by simp⟩
      · rintro ⟨_ | i, rfl, -, heq⟩
        · rfl
        · exact absurd (Option.some.inj (heq 0 (by omega))) hxy

/-! ### The answers -/

theorem verify_eq_ok {xs ys : List Byte} : verify xs ys = .ok ↔ xs = ys := by
  rw [verify]
  split
  case isTrue h =>
    rw [← firstDifference_eq_none 0 h]
    cases firstDifference 0 xs ys <;> simp
  case isFalse h => exact iff_of_false nofun fun he => h (congrArg List.length he)

theorem verify_eq_sizeMismatch {xs ys : List Byte} : verify xs ys = .sizeMismatch ↔ xs.length ≠ ys.length := by
  rw [verify]
  split
  case isTrue h => cases firstDifference 0 xs ys <;> simp [h]
  case isFalse h => exact iff_of_true rfl h

theorem verify_eq_contentMismatch {xs ys : List Byte} {i : Nat} :
    verify xs ys = .contentMismatch i ↔ xs.length = ys.length ∧ firstDifference 0 xs ys = some i := by
  rw [verify]
  split
  case isTrue h => cases firstDifference 0 xs ys <;> simp [h]
  case isFalse h => exact iff_of_false nofun fun he => h he.1

/-- Settles O52: one equivalence per answer; the offset is the one the search finds from 0 up. -/
theorem verifierAnswers : Obligations.VerifierAnswers := by
  refine fun xs ys => ⟨verify_eq_ok, verify_eq_sizeMismatch, fun i => ?_⟩
  rw [verify_eq_contentMismatch]
  refine and_congr_right fun hlen => ?_
  rw [firstDifference_eq_some hlen]
  simp only [Nat.zero_add, exists_eq_left']

end Sys2Proof.Machine
end

section
/-! Binary trees of symbols, apart from any arena: where each leaf stands, and the code table that CG_GENERATE makes of one
(43_code_generator.md R105 to R108). -/
namespace Sys2Proof.Machine

/-! ### Shapes -/

/-- A tree as CG_GENERATE and DEC_STEP see it: a real leaf carries its symbol, the filler carries none. -/
inductive Shape where
  | leaf (sym : Option Byte)
  | node (l r : Shape)

/-- The leaves from left to right. -/
def Shape.leaves : Shape → List (Option Byte)
  | .leaf o => [o]
  | .node l r => l.leaves ++ r.leaves

/-- The branch decisions lead from the root to this leaf, 0 left and 1 right (43_code_generator.md R106). -/
inductive Shape.At : Shape → List Bool → Option Byte → Prop
  | here (o : Option Byte) : Shape.At (.leaf o) [] o
  | left {l r : Shape} {p : List Bool} {o : Option Byte} (h : Shape.At l p o) : Shape.At (.node l r) (false :: p) o
  | right {l r : Shape} {p : List Bool} {o : Option Byte} (h : Shape.At r p o) : Shape.At (.node l r) (true :: p) o

theorem Shape.leaves_length_pos (T : Shape) : 0 < T.leaves.length := by
  induction T with
  | leaf o => exact Nat.one_pos
  | node l r ihl ihr => rw [leaves, List.length_append]; omega

theorem Shape.At.mem {T : Shape} {p : List Bool} {o : Option Byte} (h : T.At p o) : o ∈ T.leaves := by
  induction h with
  | here o => exact List.mem_singleton_self o
  | left _ ih => exact List.mem_append_left _ ih
  | right _ ih => exact List.mem_append_right _ ih

theorem Shape.exists_at {T : Shape} {o : Option Byte} (h : o ∈ T.leaves) : ∃ p, T.At p o := by
  induction T with
  | leaf o' =>
    obtain rfl := List.mem_singleton.1 h
    exact ⟨[], .here _⟩
  | node l r ihl ihr =>
    obtain h | h := List.mem_append.1 h
    · exact (ihl h).imp' _ fun _ => .left
    · exact (ihr h).imp' _ fun _ => .right

/-- A leaf is less deep than the tree has leaves. -/
theorem Shape.At.length_lt {T : Shape} {p : List Bool} {o : Option Byte} (h : T.At p o) : p.length < T.leaves.length := by
  induction h with
  | here o => exact Nat.one_pos
  | @left l r p o _ ih =>
    have := r.leaves_length_pos
    rw [leaves, List.length_cons, List.length_append]
    omega
  | @right l r p o _ ih =>
    have := l.leaves_length_pos
    rw [leaves, List.length_cons, List.length_append]
    omega

/-- No path to a leaf goes on to another. -/
theorem Shape.At.eq_of_prefix {T : Shape} {p q : List Bool} {o o' : Option Byte} (h : T.At p o) (h' : T.At q o')
    (hpq : p <+: q) : o = o' := by
  induction h generalizing q with
  | here o => cases h'; rfl
  | left h ih =>
    cases h' with
    | left h' => exact ih h' (List.cons_prefix_cons.1 hpq).2
    | right h' => exact absurd (List.cons_prefix_cons.1 hpq).1 nofun
  | right h ih =>
    cases h' with
    | right h' => exact ih h' (List.cons_prefix_cons.1 hpq).2
    | left h' => exact absurd (List.cons_prefix_cons.1 hpq).1 nofun

/-- A path that is not empty starts in a node, on the side of its first decision. -/
theorem Shape.At.of_cons {T : Shape} {b : Bool} {p : List Bool} {o : Option Byte} (h : T.At (b :: p) o) :
    ∃ l r, T = .node l r ∧ (if b then r else l).At p o := by
  cases h with
  | left h => exact ⟨_, _, rfl, h⟩
  | right h => exact ⟨_, _, rfl, h⟩

/-! ### Codes of paths -/

/-- The pattern whose bit i is decision i (30_encoding.md R67). -/
def pathBits (p : List Bool) : Pattern := (BitVec.ofBoolListLE p).setWidth 256

/-- The code of the leaf that the path leads to (43_code_generator.md R106). -/
def pathCode (p : List Bool) : Code := { valid := true, len := BitVec.ofNat 8 p.length, bits := pathBits p }

theorem getLsbD_pathBits (p : List Bool) {i : Nat} (h : i < 256) : (pathBits p).getLsbD i = p.getD i false := by
  simp [pathBits, h]

theorem pathBits_left (p : List Bool) : pathBits (p ++ [false]) = pathBits p := by
  refine BitVec.eq_of_getLsbD_eq fun i hi => ?_
  rw [getLsbD_pathBits _ hi, getLsbD_pathBits _ hi]
  obtain h | h := Nat.lt_or_ge i p.length
  · rw [List.getD_append _ _ _ _ h]
  · rw [List.getD_append_right _ _ _ _ h, List.getD_eq_default p _ h]
    cases i - p.length <;> rfl

theorem pathBits_right (p : List Bool) : pathBits (p ++ [true]) = pathBits p ||| (1#256 <<< p.length) := by
  refine BitVec.eq_of_getLsbD_eq fun i hi => ?_
  rw [BitVec.getLsbD_or, getLsbD_pathBits _ hi, getLsbD_pathBits _ hi, BitVec.getLsbD_shiftLeft]
  obtain h | h := Nat.lt_or_ge i p.length
  · rw [List.getD_append _ _ _ _ h]
    simp [h]
  · rw [List.getD_append_right _ _ _ _ h, List.getD_eq_default p _ h]
    obtain heq | hgt := Nat.eq_or_lt_of_le h
    · simp [heq, hi]
    · have hne : i - p.length ≠ 0 := by omega
      simp [hi, hne, BitVec.getLsbD_one]

theorem pathCode_len {p : List Bool} (h : p.length < 256) : (pathCode p).len.toNat = p.length := Nat.mod_eq_of_lt h

theorem codeBits_pathCode {p : List Bool} (h : p.length < 256) : codeBits (pathCode p) = p := by
  rw [codeBits, pathCode_len h, patternBits]
  refine List.ext_getElem (by simp) fun i hi hp => ?_
  rw [List.getElem_map, List.getElem_range]
  exact (getLsbD_pathBits p (by omega)).trans (List.getD_eq_getElem p false hp)

/-- Where one code begins another, so do their paths (43_code_generator.md R108). -/
theorem prefix_of_isPrefix {p q : List Bool} (hp : p.length < 256) (hq : q.length < 256)
    (h : isPrefix (pathCode p) (pathCode q) = true) : p <+: q := by
  obtain ⟨hlen, hbits⟩ := isPrefix_iff.1 h
  rw [pathCode_len hp] at hlen hbits
  rw [pathCode_len hq] at hlen
  refine List.prefix_iff_getElem.2 ⟨hlen, fun i hi => ?_⟩
  have hi' := hbits i hi
  rw [pathCode, pathCode, getLsbD_pathBits p (by omega), getLsbD_pathBits q (by omega)] at hi'
  rwa [List.getD_eq_getElem p false hi, List.getD_eq_getElem q false (by omega)] at hi'

/-! ### The code table of a shape -/

/-- The table after each real leaf has its code, where the path p leads to the shape's root (43_code_generator.md R106). -/
def Shape.putCodes (ct : Vector Code 256) (p : List Bool) : Shape → Vector Code 256
  | .leaf none => ct
  | .leaf (some x) => ctPut ct x (pathCode p)
  | .node l r => r.putCodes (l.putCodes ct (p ++ [false])) (p ++ [true])

theorem Shape.ctAt_putCodes_of_not_mem {T : Shape} {x : Byte} (h : some x ∉ T.leaves) (ct : Vector Code 256)
    (p : List Bool) : ctAt (T.putCodes ct p) x = ctAt ct x := by
  induction T generalizing ct p with
  | leaf o =>
    cases o with
    | none => rfl
    | some y => exact ctAt_ctPut_ne ct _ fun he => h (List.mem_singleton.2 (congrArg some he))
  | node l r ihl ihr =>
    rw [leaves, List.mem_append, not_or] at h
    rw [putCodes, ihr h.2, ihl h.1]

/-- With distinct leaves each symbol's code is the path to its leaf. -/
theorem Shape.ctAt_putCodes {T : Shape} {x : Byte} {q : List Bool} (hn : T.leaves.Nodup) (h : T.At q (some x))
    (ct : Vector Code 256) (p : List Bool) : ctAt (T.putCodes ct p) x = pathCode (p ++ q) := by
  induction T generalizing ct p q with
  | leaf o =>
    cases h
    rw [putCodes, ctAt_ctPut_self, List.append_nil]
  | node l r ihl ihr =>
    obtain ⟨hl, hr, hlr⟩ := List.nodup_append.1 hn
    cases h with
    | left h =>
      have hx : some x ∉ r.leaves := fun hx => hlr _ h.mem _ hx rfl
      rw [putCodes, ctAt_putCodes_of_not_mem hx, ihl hl h, List.append_assoc, List.singleton_append]
    | right h => rw [putCodes, ihr hr h, List.append_assoc, List.singleton_append]

/-- A shape that TB_BUILD can make: distinct leaves, at least two and at most 256 (42_tree_builder.md R96, R99). -/
structure Shape.Fits (T : Shape) : Prop where
  nodup : T.leaves.Nodup
  two_le : 2 ≤ T.leaves.length
  le : T.leaves.length ≤ 256

/-- The codes of the shape in an empty table. -/
def Shape.codes (T : Shape) : Vector Code 256 := T.putCodes ctEmpty []

section
variable {T : Shape} (hT : T.Fits)
include hT

theorem Shape.Fits.path_length_lt {p : List Bool} {o : Option Byte} (h : T.At p o) : p.length < 256 :=
  h.length_lt.trans_le hT.le

theorem Shape.Fits.path_ne_nil {p : List Bool} {o : Option Byte} (h : T.At p o) : p ≠ [] := by
  rintro rfl
  cases h
  exact absurd hT.two_le (by decide : ¬ 2 ≤ 1)

theorem Shape.Fits.ctAt_codes {x : Byte} {p : List Bool} (h : T.At p (some x)) : ctAt T.codes x = pathCode p :=
  ctAt_putCodes hT.nodup h ctEmpty []

/-- Only the shape's symbols have a code, each the path to its leaf. -/
theorem Shape.Fits.exists_path {x : Byte} (h : (ctAt T.codes x).valid = true) :
    ∃ p, T.At p (some x) ∧ ctAt T.codes x = pathCode p := by
  by_cases hx : some x ∈ T.leaves
  · obtain ⟨p, hp⟩ := exists_at hx
    exact ⟨p, hp, hT.ctAt_codes hp⟩
  · rw [Shape.codes, ctAt_putCodes_of_not_mem hx, ctAt_ctEmpty] at h
    cases h

theorem Shape.Fits.codes_of_mem {x : Byte} (h : some x ∈ T.leaves) :
    (ctAt T.codes x).valid = true ∧ T.At (codeBits (ctAt T.codes x)) (some x) := by
  obtain ⟨p, hp⟩ := exists_at h
  rw [hT.ctAt_codes hp, codeBits_pathCode (hT.path_length_lt hp)]
  exact ⟨rfl, hp⟩

/-- The codes of a shape pass the check (43_code_generator.md R108). -/
theorem Shape.Fits.codesOk : codesOk T.codes = true := by
  refine codesOk_iff.2 ⟨codesHaveLength_iff.2 fun x hx hlen => ?_, codesPrefixFree_iff.2 fun x hx y hxy hy hp => ?_⟩
  · obtain ⟨p, hp, hc⟩ := hT.exists_path hx
    have hlen := congrArg BitVec.toNat hlen
    rw [hc, pathCode_len (hT.path_length_lt hp)] at hlen
    exact hT.path_ne_nil hp (List.length_eq_zero_iff.1 hlen)
  · obtain ⟨p, hpx, hcx⟩ := hT.exists_path hx
    obtain ⟨q, hqy, hcy⟩ := hT.exists_path hy
    rw [hcx, hcy] at hp
    have hpq := prefix_of_isPrefix (hT.path_length_lt hpx) (hT.path_length_lt hqy) hp
    exact hxy (Option.some.inj (hpx.eq_of_prefix hqy hpq))

end

end Sys2Proof.Machine
end

section
/-! The shape that stands in the arena below a record, and CG_GENERATE and CG_VERIFY on it (43_code_generator.md R105 to
R109). -/
namespace Sys2Proof.Machine

/-! ### Shapes in the arena -/

/-- The shape stands in the arena, its root at this index; all its records are in use. -/
def Shows (t : Tree) : Shape → NodeIx → Prop
  | .leaf o, i => i.toNat < t.cnt.toNat ∧ (recordAt t i.toNat).kind = .leaf ∧
      (recordAt t i.toNat).filler = o.isNone ∧ ∀ x, o = some x → (recordAt t i.toNat).sym = x
  | .node l r, i => i.toNat < t.cnt.toNat ∧ (recordAt t i.toNat).kind = .internal ∧
      Shows t l (recordAt t i.toNat).left ∧ Shows t r (recordAt t i.toNat).right

theorem Shows.index_lt {t : Tree} {T : Shape} {i : NodeIx} (h : Shows t T i) : i.toNat < t.cnt.toNat := by
  cases T <;> exact h.1

theorem nodeAt_eq_recordAt (t : Tree) {i : NodeIx} (h : i.toNat < 511) :
    nodeAt t.node i = some (recordAt t i.toNat) := by
  rw [nodeAt, recordAt, Vector.getElem?_eq_getElem h, Option.getD_some]

/-- An index in use is below 511, since NODE_CNT has 9 bits. -/
theorem Shows.nodeAt {t : Tree} {T : Shape} {i : NodeIx} (h : Shows t T i) :
    nodeAt t.node i = some (recordAt t i.toNat) :=
  nodeAt_eq_recordAt t (by have := h.index_lt; have := t.cnt.isLt; omega)

theorem Shows.ne_null {t : Tree} {T : Shape} {i : NodeIx} (h : Shows t T i) : i ≠ Config.null := by
  rintro rfl
  have hlt := h.index_lt
  have hcnt := t.cnt.isLt
  have hnull : Config.null.toNat = 511 := rfl
  omega

/-- Only the records in use matter. -/
theorem Shows.of_records {t u : Tree} (hcnt : t.cnt.toNat ≤ u.cnt.toNat)
    (hrec : ∀ i, i < t.cnt.toNat → recordAt t i = recordAt u i) {T : Shape} {i : NodeIx} (h : Shows t T i) :
    Shows u T i := by
  induction T generalizing i with
  | leaf o =>
    obtain ⟨hi, h⟩ := h
    rw [hrec _ hi] at h
    exact ⟨hi.trans_le hcnt, h⟩
  | node l r ihl ihr =>
    obtain ⟨hi, hk, hl, hr⟩ := h
    rw [hrec _ hi] at hk hl hr
    exact ⟨hi.trans_le hcnt, hk, ihl hl, ihr hr⟩

theorem Shows.congr {t u : Tree} {T : Shape} {i : NodeIx} (h : Shows t T i) (hcnt : t.cnt = u.cnt)
    (hnode : t.node = u.node) : Shows u T i :=
  h.of_records (congrArg BitVec.toNat hcnt).le fun i _ => by rw [recordAt, recordAt, hnode]

/-- A record added leaves the shapes that stand there. -/
theorem Shows.add {t : Tree} {T : Shape} {i : NodeIx} (h : Shows t T i) (n : Node) (hcnt : t.cnt.toNat < 511) :
    Shows (t.add n) T i := by
  refine h.of_records ?_ fun i hi => ?_
  · rw [Tree.add_cnt, BitVec.toNat_add, BitVec.toNat_ofNat]
    omega
  · rw [recordAt_add, if_neg fun he => absurd he.1 (by omega)]

theorem readNode_of_nodeAt {s : State} {i : NodeIx} {n : Node} (h : nodeAt s.tree.node i = some n) :
    readNode i s = .ok n s := by
  rw [readNode_eq, h]

/-! ### The walk -/

/-- Walk on a shape gives each real leaf the code of its path (43_code_generator.md R106). -/
theorem walk_of_shows {T : Shape} {s : State} {i : NodeIx} (h : Shows s.tree T i) {k : Nat} (hk : T.leaves.length ≤ k)
    (p : List Bool) :
    walk k i (pathBits p) p.length s = .ok () (s.setCodes { s.codes with ct := T.putCodes s.codes.ct p }) := by
  induction T generalizing s i k p with
  | leaf o =>
    obtain ⟨k, rfl⟩ : ∃ j, k = j + 1 := ⟨k - 1, by have : 1 ≤ k := hk; omega⟩
    have hnode := h.nodeAt
    obtain ⟨-, hkind, hfiller, hsym⟩ := h
    rw [walk_leaf hnode hkind, hfiller]
    cases o with
    | none => rfl
    | some x => rw [hsym x rfl]; rfl
  | node l r ihl ihr =>
    have hl := l.leaves_length_pos
    have hr := r.leaves_length_pos
    rw [Shape.leaves, List.length_append] at hk
    obtain ⟨k, rfl⟩ : ∃ j, k = j + 1 := ⟨k - 1, by omega⟩
    have hnode := h.nodeAt
    obtain ⟨-, hkind, hleft, hright⟩ := h
    have hwl := ihl (s := s) hleft (k := k) (by omega) (p ++ [false])
    rw [pathBits_left, List.length_append, List.length_singleton] at hwl
    have hwr := ihr (s := s.setCodes { s.codes with ct := l.putCodes s.codes.ct (p ++ [false]) }) hright
      (k := k) (by omega) (p ++ [true])
    rw [pathBits_right, List.length_append, List.length_singleton] at hwr
    rw [walk_internal hnode hkind, Cmd.run_bind_ok hwl, hwr]
    rfl

/-- Where the special case applies both children are leaves, and it gives what the walk would give
(43_code_generator.md R107). -/
theorem assignSingle_of_shows {l r : Shape} {s : State} {i j : NodeIx} (hl : Shows s.tree l i) (hr : Shows s.tree r j)
    (h : isSingle (recordAt s.tree i.toNat) (recordAt s.tree j.toNat) = true) :
    assignSingle (recordAt s.tree i.toNat) (recordAt s.tree j.toNat) s =
      .ok () (s.setCodes { s.codes with ct := (Shape.node l r).putCodes s.codes.ct [] }) := by
  cases l with
  | node => simp [isSingle, hl.2.1] at h
  | leaf o =>
    cases r with
    | node => simp [isSingle, hr.2.1] at h
    | leaf o' =>
      obtain ⟨-, -, hfl, hsl⟩ := hl
      obtain ⟨-, -, hfr, hsr⟩ := hr
      rw [isSingle, hfl, hfr] at h
      rw [assignSingle, hfl, hfr]
      match o, o' with
      | some x, some y => simp at h
      | some x, none => rw [hsl x rfl]; rfl
      | none, some y => rw [hsr y rfl]; rfl
      | none, none => rfl

/-- The codes below a root that is no leaf (43_code_generator.md R105). -/
theorem assignCodes_of_shows {l r : Shape} {s : State} {i : NodeIx} (h : Shows s.tree (.node l r) i)
    (hle : (Shape.node l r).leaves.length ≤ 256) :
    assignCodes i (recordAt s.tree (recordAt s.tree i.toNat).left.toNat)
        (recordAt s.tree (recordAt s.tree i.toNat).right.toNat) s =
      .ok () (s.setCodes { s.codes with ct := (Shape.node l r).putCodes s.codes.ct [] }) := by
  have hwalk := walk_of_shows h hle []
  obtain ⟨-, -, hl, hr⟩ := h
  rw [assignCodes]
  split
  case isTrue hsingle => exact assignSingle_of_shows hl hr hsingle
  case isFalse => exact hwalk

theorem checkCodes_of_ok {s : State} (h : codesOk s.codes.ct = true) : checkCodes s = .ok () s := if_pos h

/-- CG_GENERATE on the shape of a tree that TB_BUILD makes (43_code_generator.md R105). -/
theorem cgGenerate_of_shows {T : Shape} {s : State} (hT : T.Fits) (hvalid : s.tree.valid = true)
    (h : Shows s.tree T s.tree.root) : cgGenerate s = .ok () (s.setCodes { ct := T.codes, valid := true }) := by
  cases T with
  | leaf o => exact absurd hT.two_le (by decide : ¬ 2 ≤ 1)
  | node l r =>
    have hshows : Shows (s.setCodes { ct := ctEmpty, valid := false }).tree (.node l r)
      (s.setCodes { ct := ctEmpty, valid := false }).tree.root := h
    have hassign := assignCodes_of_shows hshows hT.le
    have hroot := hshows.nodeAt
    obtain ⟨-, -, hl, hr⟩ := hshows
    rw [cgGenerate, Cmd.run_bind_ok (need_of_set hvalid), Cmd.run_bind_ok (Cmd.run_update _ _),
      Cmd.run_bind_ok (Cmd.run_getState _), Cmd.run_bind_ok (readNode_of_nodeAt hroot),
      Cmd.run_bind_ok (readNode_of_nodeAt hl.nodeAt), Cmd.run_bind_ok (readNode_of_nodeAt hr.nodeAt),
      Cmd.run_bind_ok hassign, Cmd.run_bind_ok (checkCodes_of_ok ?_)]
    · rfl
    · exact hT.codesOk

theorem cgVerify_of_codes_eq {T : Shape} {s : State} (hT : T.Fits) (h : s.codes = { ct := T.codes, valid := true }) :
    cgVerify s = .ok () s := by
  rw [cgVerify_of_codes (by rw [h]), checkCodes_of_ok (by rw [h]; exact hT.codesOk)]

end Sys2Proof.Machine
end

section
/-! TB_BUILD makes a shape whose real leaves are the table's symbols (42_tree_builder.md R96, R97, R99): the entries of the
queue stand for a forest, which each combination makes smaller by one. Two runs with one table and one TIEBREAK make the
same shape (R102). -/
namespace Sys2Proof.Machine

/-! ### Completing -/

/-- The command ends normally, within Q. -/
def Completes {α : Type} (c : Cmd α) (s : State) (Q : α → State → Prop) : Prop := ∃ a t, c s = .ok a t ∧ Q a t

section
variable {α β : Type} {c : Cmd α} {f : α → Cmd β} {s t : State} {a : α}
  {Q : α → State → Prop} {R : β → State → Prop}

theorem completes_of_ok (h : c s = .ok a t) (hQ : Q a t) : Completes c s Q := ⟨a, t, h, hQ⟩

theorem completes_bind (h : Completes c s Q) (hf : ∀ a t, Q a t → Completes (f a) t R) : Completes (c >>= f) s R := by
  obtain ⟨a, t, hc, hQ⟩ := h
  rw [Completes, Cmd.run_bind_ok hc]
  exact hf a t hQ

/-- A first step known by its next state. -/
theorem completes_bind_of_ok (h : c s = .ok a t) (hf : Completes (f a) t R) : Completes (c >>= f) s R :=
  completes_bind (completes_of_ok (Q := fun b u => b = a ∧ u = t) h ⟨rfl, rfl⟩) fun _ _ ⟨hb, hu⟩ => hb ▸ hu ▸ hf

theorem completes_mono {Q' : α → State → Prop} (h : Completes c s Q) (hQ : ∀ a t, Q a t → Q' a t) :
    Completes c s Q' :=
  h.imp fun _ => Exists.imp fun _ => And.imp_right (hQ _ _)

end

/-! ### The forest of the queue -/

/-- Each entry stands for the shape at its record, and together the shapes have these leaves. -/
def Forest (t : Tree) (es : List PqEntry) (os : List (Option Byte)) : Prop :=
  ∃ Ts : List Shape, List.Forall₂ (fun e T => Shows t T (e.value.setWidth 9)) es Ts ∧
    (Ts.flatMap Shape.leaves).Perm os

theorem forest_nil (t : Tree) : Forest t [] [] := ⟨[], .nil, .nil⟩

theorem Forest.perm {t : Tree} {es es' : List PqEntry} {os : List (Option Byte)} (h : Forest t es os)
    (hes : es'.Perm es) : Forest t es' os := by
  obtain ⟨Ts, hTs, hos⟩ := h
  obtain ⟨Ts', hTs', hperm⟩ := List.perm_comp_forall₂ hes hTs
  exact ⟨Ts', hTs', (hperm.flatMap_right _).trans hos⟩

theorem Forest.add {t : Tree} {es : List PqEntry} {os : List (Option Byte)} (h : Forest t es os) (n : Node)
    (hcnt : t.cnt.toNat < 511) : Forest (t.add n) es os := by
  obtain ⟨Ts, hTs, hos⟩ := h
  exact ⟨Ts, hTs.imp fun _ _ h => h.add n hcnt, hos⟩

theorem forest_cons {t : Tree} {e : PqEntry} {es : List PqEntry} {os : List (Option Byte)} :
    Forest t (e :: es) os ↔
      ∃ T os', Shows t T (e.value.setWidth 9) ∧ Forest t es os' ∧ (T.leaves ++ os').Perm os := by
  constructor
  · rintro ⟨_, _ | ⟨hT, hTs⟩, hos⟩
    exact ⟨_, _, hT, ⟨_, hTs, .refl _⟩, hos⟩
  · rintro ⟨T, os', hT, ⟨Ts, hTs, hos'⟩, hos⟩
    exact ⟨T :: Ts, .cons hT hTs, (hos'.append_left _).trans hos⟩

/-- One entry left is one shape. -/
theorem Forest.of_singleton {t : Tree} {e : PqEntry} {os : List (Option Byte)} (h : Forest t [e] os) :
    ∃ T : Shape, Shows t T (e.value.setWidth 9) ∧ T.leaves.Perm os := by
  obtain ⟨T, _, hT, ⟨_, _ | _, hos'⟩, hos⟩ := forest_cons.1 h
  exact ⟨T, hT, by simpa [List.nil_perm.1 hos'] using hos⟩

/-! ### Building -/

/-- A state in the middle of BuildGeneral, which started at s₀: only the tree and the queue have changed, the queue is a
forest with these leaves, and the arena has room for what is still to come. -/
structure Building (s₀ : State) (os : List (Option Byte)) (s : State) : Prop where
  frame : s = (s₀.setTree s.tree).setQueue s.queue
  forest : Forest s.tree s.queue.entries os
  count : s.tree.cnt.toNat + s.queue.entries.length = 2 * os.length

/-- A record of a shape joins the forest. -/
theorem building_addAndQueue {s₀ s : State} {os os' : List (Option Byte)} {T : Shape} {n : Node}
    (hframe : s = (s₀.setTree s.tree).setQueue s.queue) (hforest : Forest s.tree s.queue.entries os)
    (hcnt : s.tree.cnt.toNat < 511) (hT : Shows (s.tree.add n) T s.tree.cnt) (hos : (T.leaves ++ os).Perm os')
    (hcount : s.tree.cnt.toNat + s.queue.entries.length + 2 = 2 * os'.length) :
    Completes (addAndQueue n) s fun _ t =>
      Building s₀ os' t ∧ t.queue.entries.length = s.queue.entries.length + 1 := by
  refine completes_of_ok (addAndQueue_eq n s) ⟨⟨?_, ?_, ?_⟩, List.length_append⟩
  · rw [hframe]
    rfl
  · refine Forest.perm ?_ (List.perm_append_singleton _ _)
    have hvalue : (s.tree.cnt.setWidth 16).setWidth 9 = s.tree.cnt := by simp
    exact forest_cons.2 ⟨T, os, hvalue.symm ▸ hT, hforest.add n hcnt, hos⟩
  · show (s.tree.cnt + 1#9).toNat + (s.queue.entries ++ [_]).length = _
    rw [List.length_append, BitVec.toNat_add, BitVec.toNat_ofNat, List.length_singleton]
    omega

theorem recordAt_add_cnt {t : Tree} (n : Node) (h : t.cnt.toNat < 511) : recordAt (t.add n) t.cnt.toNat = n := by
  rw [recordAt_add, if_pos ⟨rfl, h⟩]

theorem cnt_lt_add_cnt {t : Tree} (n : Node) (h : t.cnt.toNat < 511) : t.cnt.toNat < (t.add n).cnt.toNat := by
  rw [Tree.add_cnt, BitVec.toNat_add, BitVec.toNat_ofNat]
  omega

theorem shows_add_leaf {t : Tree} (x : Byte) (c : Count) (h : t.cnt.toNat < 511) :
    Shows (t.add (leafNode x c)) (.leaf (some x)) t.cnt := by
  rw [Shows, recordAt_add_cnt _ h]
  exact ⟨cnt_lt_add_cnt _ h, rfl, rfl, fun _ => Option.some.inj⟩

theorem shows_add_internal {t : Tree} {l r : Shape} {i j : NodeIx} (f : Word) (hl : Shows t l i) (hr : Shows t r j)
    (h : t.cnt.toNat < 511) : Shows (t.add (internalNode f i j)) (.node l r) t.cnt := by
  rw [Shows, recordAt_add_cnt _ h]
  exact ⟨cnt_lt_add_cnt _ h, rfl, hl.add _ h, hr.add _ h⟩

/-- The leaves, one record and one entry each (42_tree_builder.md R97). -/
theorem building_addLeaves {s₀ s : State} {os : List (Option Byte)} {xs : List Byte} (h : Building s₀ os s)
    (hlen : os.length + xs.length ≤ 255) (hnew : s.queue.entries.length = os.length) :
    Completes (addLeaves xs) s fun _ t => ∃ os', Building s₀ os' t ∧ os'.Perm (xs.map some ++ os) ∧
      t.queue.entries.length = os'.length := by
  induction xs generalizing s os with
  | nil => exact completes_of_ok (Cmd.run_pure () s) ⟨os, h, .refl _, hnew⟩
  | cons x xs ih =>
    obtain ⟨hframe, hforest, hcount⟩ := h
    rw [List.length_cons] at hlen
    have hcnt : s.tree.cnt.toNat < 511 := by omega
    rw [Completes, addLeaves_cons]
    have hadd := building_addAndQueue (os' := some x :: os) hframe hforest hcnt
      (shows_add_leaf x (ftAt s.ft x).count hcnt) (.refl _) (by rw [List.length_cons]; omega)
    refine completes_bind hadd fun _ t ⟨ht, hlt⟩ => ?_
    refine completes_mono (ih ht (by rw [List.length_cons]; omega) (by rw [List.length_cons]; omega))
      fun _ v ⟨os', hv, hos', hlv⟩ => ⟨os', hv, hos'.trans List.perm_middle, hlv⟩

/-- One combination (42_tree_builder.md R97, R98). -/
theorem building_combine {s₀ s : State} {os : List (Option Byte)} (h : Building s₀ os s) (hlen : os.length ≤ 255)
    (htwo : 2 ≤ s.queue.entries.length) :
    Completes combine s fun _ t => Building s₀ os t ∧ t.queue.entries.length + 1 = s.queue.entries.length := by
  obtain ⟨hframe, hforest, hcount⟩ := h
  obtain ⟨a, ha⟩ := exists_minEntry (env := s.env)
    (List.ne_nil_of_length_pos (by omega : 0 < s.queue.entries.length))
  have hla := length_erase_minEntry ha
  obtain ⟨b, hb⟩ := exists_minEntry (env := s.env)
    (List.ne_nil_of_length_pos (by omega : 0 < (s.queue.entries.erase a).length))
  have hlb := length_erase_minEntry hb
  have hperm : (a :: b :: (s.queue.entries.erase a).erase b).Perm s.queue.entries :=
    ((List.perm_cons_erase (mem_of_minEntry hb)).symm.cons a).trans (List.perm_cons_erase (mem_of_minEntry ha)).symm
  obtain ⟨A, osA, hA, hforest, hosA⟩ := forest_cons.1 (hforest.perm hperm)
  obtain ⟨B, osB, hB, hforest, hosB⟩ := forest_cons.1 hforest
  have hos : ((Shape.node A B).leaves ++ osB).Perm os := by
    rw [Shape.leaves, List.append_assoc]
    exact (hosB.append_left _).trans hosA
  have hcnt : s.tree.cnt.toNat < 511 := by omega
  rw [Completes, combine_eq ha hb]
  refine completes_mono (building_addAndQueue (s₀ := s₀) ?_ hforest hcnt (shows_add_internal _ hA hB hcnt) hos ?_)
    fun _ t ⟨ht, hlt⟩ => ⟨ht, ?_⟩
  · rw [hframe]
    rfl
  · show s.tree.cnt.toNat + ((s.queue.entries.erase a).erase b).length + 2 = _
    omega
  · rw [hlt]
    show ((s.queue.entries.erase a).erase b).length + 1 + 1 = _
    omega

/-- The loop ends with one entry (42_tree_builder.md R97). -/
theorem building_combineAll {s₀ s : State} {os : List (Option Byte)} {k : Nat} (h : Building s₀ os s)
    (hlen : os.length ≤ 255) (hpos : 1 ≤ s.queue.entries.length) (hk : s.queue.entries.length ≤ k + 1) :
    Completes (combineAll k) s fun _ t => Building s₀ os t ∧ t.queue.entries.length = 1 := by
  induction k generalizing s with
  | zero => exact completes_of_ok (combineAll_of_lt (by omega)) ⟨h, by omega⟩
  | succ k ih =>
    by_cases htwo : 2 ≤ s.queue.entries.length
    · rw [Completes, combineAll_succ htwo]
      exact completes_bind (building_combine h hlen htwo) fun _ t ⟨ht, hlt⟩ => ih ht (by omega) (by omega)
    · exact completes_of_ok (combineAll_of_lt (by omega)) ⟨h, by omega⟩

/-- Where TB_BUILD ends: only the tree and the queue differ from its start, and this shape stands at ROOT. -/
def BuiltFrom (s₀ : State) (T : Shape) (t : State) : Prop :=
  t = (s₀.setTree t.tree).setQueue t.queue ∧ Shows t.tree T t.tree.root

theorem building_startBuild (s : State) : Building s.startBuild [] s.startBuild := ⟨rfl, forest_nil _, rfl⟩

theorem buildGeneral_shows {xs : List Byte} (s : State) (htwo : 2 ≤ xs.length) (hle : xs.length ≤ 255) :
    Completes (buildGeneral xs) s.startBuild fun _ t =>
      ∃ T : Shape, T.leaves.Perm (xs.map some) ∧ BuiltFrom s.startBuild T t := by
  refine completes_bind (building_addLeaves (xs := xs) (building_startBuild s) (by simpa using hle) rfl)
    fun _ t ⟨os, ht, hos, hlt⟩ => ?_
  rw [List.append_nil] at hos
  have hlen : os.length = xs.length := hos.length_eq.trans (List.length_map _)
  refine completes_bind_of_ok (Cmd.run_getState t) ?_
  refine completes_bind (building_combineAll ht (by omega) (by omega) (by omega)) fun _ v ⟨hv, hlv⟩ => ?_
  obtain ⟨hframe, hforest, -⟩ := hv
  obtain ⟨e, he⟩ := List.length_eq_one_iff.1 hlv
  obtain ⟨T, hT, hleaves⟩ := (he ▸ hforest).of_singleton
  have hmin : minEntry v.env v.queue.entries = some e := by rw [he]; rfl
  refine completes_bind_of_ok (pqExtractMin_of_min hmin) (completes_of_ok (setRoot_eq _ _)
    ⟨T, hleaves.trans hos, ?_, ?_⟩)
  · rw [hframe]
    rfl
  · exact hT.congr rfl rfl

theorem recordAt_of_nodeAt {t : Tree} {i : NodeIx} {n : Node} (h : nodeAt t.node i = some n) :
    recordAt t i.toNat = n := by
  rw [nodeAt] at h
  rw [recordAt, h, Option.getD_some]

/-- The tree of one symbol: its leaf on the left, the filler on the right (42_tree_builder.md R96). -/
theorem buildSingle_shows (x : Byte) (s : State) :
    Completes (buildSingle x) s.startBuild fun _ t =>
      BuiltFrom s.startBuild (.node (.leaf (some x)) (.leaf none)) t := by
  refine completes_of_ok (buildSingle_of_empty x rfl) ⟨rfl, ?_⟩
  have hleaf := nodeAt_singleArena_leaf s.startBuild.tree.node (leafNode x (ftAt s.startBuild.ft x).count)
  have hfiller := nodeAt_singleArena_filler s.startBuild.tree.node (leafNode x (ftAt s.startBuild.ft x).count)
  have hroot := nodeAt_singleArena_root s.startBuild.tree.node (leafNode x (ftAt s.startBuild.ft x).count)
  generalize singleArena s.startBuild.tree.node (leafNode x (ftAt s.startBuild.ft x).count) = node at *
  show Shows { s.startBuild.tree with node := node, cnt := 3#9, root := 2#9 } _ 2#9
  generalize ht : ({ s.startBuild.tree with node := node, cnt := 3#9, root := 2#9 } : Tree) = t
  have hcnt : t.cnt.toNat = 3 := by rw [← ht]; rfl
  rw [show node = t.node from ht ▸ rfl] at hleaf hfiller hroot
  have h2 := recordAt_of_nodeAt hroot
  have h1 := recordAt_of_nodeAt hfiller
  have h0 := recordAt_of_nodeAt hleaf
  simp only [Shows, h2, hcnt, internalNode, h1, h0, leafNode, fillerNode]
  simp

/-- TB_BUILD makes a shape of the table's symbols (42_tree_builder.md R95, R99). -/
theorem buildFrom_shows {xs : List Byte} (s : State) (hne : xs ≠ []) (hle : xs.length ≤ 255) (hnodup : xs.Nodup) :
    Completes (buildFrom xs) s.startBuild fun _ t =>
      ∃ T : Shape, T.Fits ∧ (∀ x ∈ xs, some x ∈ T.leaves) ∧ BuiltFrom s.startBuild T t := by
  match xs with
  | [] => exact absurd rfl hne
  | [x] =>
    refine completes_mono (buildSingle_shows x s) fun _ t ht => ⟨_, ⟨?_, ?_, ?_⟩, fun y hy => ?_, ht⟩
    · simp [Shape.leaves]
    · simp [Shape.leaves]
    · simp [Shape.leaves]
    · simp [Shape.leaves, List.mem_singleton.1 hy]
  | x :: y :: xs =>
    refine completes_mono (buildGeneral_shows s (by simp) hle) fun _ t ⟨T, hT, ht⟩ => ?_
    have hlen := hT.length_eq.trans (List.length_map _)
    refine ⟨T, ⟨?_, ?_, ?_⟩, fun z hz => hT.mem_iff.2 (List.mem_map_of_mem hz), ht⟩
    · exact hT.nodup_iff.2 (hnodup.map (Option.some_injective _))
    · rw [hlen]; simp
    · rw [hlen]; omega

theorem presentSyms_nodup (ft : Vector FtEntry 256) : (presentSyms ft).Nodup :=
  (presentSyms_pairwise ft).imp BitVec.ne_of_lt

/-- What TB_BUILD leaves of a state: its own tree, valid, and its own queue; the shape stands at ROOT. -/
def Built (s : State) (T : Shape) (t : State) : Prop :=
  t = (s.startBuild.setTree t.tree).setQueue t.queue ∧ t.tree.valid = true ∧ Shows t.tree T t.tree.root

theorem tbBuild_shows {s : State} (hne : presentSyms s.ft ≠ []) (hle : ftN s.ft ≤ 255) :
    Completes tbBuild s fun _ t =>
      ∃ T : Shape, T.Fits ∧ (∀ x ∈ presentSyms s.ft, some x ∈ T.leaves) ∧ Built s T t := by
  rw [Completes, tbBuild_of_present hne]
  refine completes_bind (buildFrom_shows s hne hle (presentSyms_nodup _)) fun _ t ⟨T, hT, hmem, hframe, hroot⟩ => ?_
  refine completes_of_ok (Cmd.run_update _ t) ⟨T, hT, hmem, ?_, rfl, ?_⟩
  · rw [hframe]
    rfl
  · exact hroot.congr rfl rfl

theorem EndAlike.of_ok {α : Type} {R : State → State → Prop} {a b : α} {t v : State}
    (h : EndAlike R (.ok a t) (.ok b v)) : R t v := by
  cases h
  assumption

/-- The shape depends on the table and on TIEBREAK alone (42_tree_builder.md R102). -/
theorem exists_shape {s : State} (hne : presentSyms s.ft ≠ []) (hle : ftN s.ft ≤ 255) :
    ∃ T : Shape, T.Fits ∧ (∀ x ∈ presentSyms s.ft, some x ∈ T.leaves) ∧
      ∀ u : State, u.ft = s.ft → u.env.tieRank = s.env.tieRank → Completes tbBuild u fun _ v => Built u T v := by
  obtain ⟨_, t, ht, T, hT, hmem, -, -, hroot⟩ := tbBuild_shows hne hle
  refine ⟨T, hT, hmem, fun u hft hrank => ?_⟩
  obtain ⟨_, v, hv, -, -, -, hframe, hvalid, -⟩ := tbBuild_shows (s := u) (hft ▸ hne) (hft ▸ hle)
  have halike := endAlike_tbBuild hft.symm hrank.symm hne
  rw [ht, hv] at halike
  have hsame := halike.of_ok
  exact ⟨_, v, hv, hframe, hvalid, hsame.root ▸ hroot.of_records (congrArg BitVec.toNat hsame.cnt).le hsame.records⟩

end Sys2Proof.Machine
end

section
/-! FREQ_SCAN of an input without an overflow (40_frequency_table.md R82): the table holds each byte value of the input with
the number of its occurrences. -/
namespace Sys2Proof.Machine

/-- The table of this input's counts (40_frequency_table.md R82). -/
def Counts (ft : Vector FtEntry 256) (bs : List Byte) : Prop :=
  ∀ x, ftAt ft x = { present := decide (x ∈ bs), count := BitVec.ofNat 32 (bs.count x) }

theorem counts_ftEmpty : Counts ftEmpty [] := fun x => ftAt_ftEmpty x

theorem Counts.canonical {ft : Vector FtEntry 256} {bs : List Byte} (h : Counts ft bs) : FtCanonical ft := by
  intro x hx
  rw [h x] at hx ⊢
  rw [List.count_eq_zero_of_not_mem (of_decide_eq_false hx)]

theorem Counts.mem_presentSyms {ft : Vector FtEntry 256} {bs : List Byte} (h : Counts ft bs) {x : Byte} :
    x ∈ presentSyms ft ↔ x ∈ bs := by
  rw [Machine.mem_presentSyms, h x, decide_eq_true_iff]

theorem Counts.presentSyms_ne_nil {ft : Vector FtEntry 256} {bs : List Byte} (h : Counts ft bs) (hne : bs ≠ []) :
    presentSyms ft ≠ [] := by
  obtain ⟨x, hx⟩ := List.exists_mem_of_ne_nil bs hne
  exact List.ne_nil_of_mem (h.mem_presentSyms.2 hx)

/-- An input that lacks some byte value has at most 255 symbols. -/
theorem Counts.ftN_le {ft : Vector FtEntry 256} {bs : List Byte} (h : Counts ft bs) (hlack : ∃ x, x ∉ bs) :
    ftN ft ≤ 255 := by
  obtain ⟨x, hx⟩ := hlack
  have hlt : (presentSyms ft).length < allSyms.length :=
    List.length_filter_lt_length_iff_exists.2
      ⟨x, mem_allSyms x, mt Machine.mem_presentSyms.2 (mt h.mem_presentSyms.1 hx)⟩
  rw [length_allSyms] at hlt
  exact Nat.le_of_lt_succ hlt

theorem countByte_of_counts {s : State} {done : List Byte} {v : Byte} (h : Counts s.ft done)
    (hlt : done.count v + 1 < 2 ^ 32) :
    ∃ ft, countByte v s = .ok () (s.setFt ft) ∧ Counts ft (done ++ [v]) := by
  have hmax : ¬ (ftAt s.ft v).count = BitVec.allOnes 32 := by
    intro he
    have he := congrArg BitVec.toNat he
    rw [h v, BitVec.toNat_ofNat, BitVec.toNat_allOnes] at he
    omega
  refine ⟨_, (countByte_eq v s).trans (if_neg hmax), fun x => ?_⟩
  rw [ftAt_ftPut, h v, h x]
  split
  case isTrue hx => simp [hx, BitVec.ofNat_add]
  case isFalse hx => simp [hx, Ne.symm hx]

theorem unread_congr {s t : State} (h : s.src = t.src) : unread s = unread t := by
  rw [unread, unread, bytesLeft, bytesLeft, h]

theorem srcByte_of_unread_cons {s : State} {b : Byte} {bs : List Byte} (hio : s.env.ioFaults = [])
    (h : unread s = b :: bs) : srcByte s = .ok (some b) (s.readPast 1) := by
  obtain ⟨hlt, hread, -⟩ := unread_eq_cons h
  rw [srcByte_of_pos_lt_len hlt (ioFails_of_nil hio _ _), hread]
  rfl

theorem scanLoop_of_counts {s : State} {done bs : List Byte} (n : Word) (hio : s.env.ioFaults = [])
    (hft : Counts s.ft done) (hbs : unread s = bs) (hlt : ∀ x, (done ++ bs).count x < 2 ^ 32) :
    ∃ ft, scanLoop bs.length n s = .ok (n + BitVec.ofNat 64 bs.length) ((s.readPast bs.length).setFt ft) ∧
      Counts ft (done ++ bs) := by
  induction bs generalizing s done n with
  | nil =>
    refine ⟨s.ft, ?_, by rwa [List.append_nil]⟩
    rw [List.length_nil, State.readPast_zero, BitVec.add_zero]
    rfl
  | cons b bs ih =>
    obtain ⟨-, -, hnext⟩ := unread_eq_cons hbs
    have hb := hlt b
    rw [List.count_append, List.count_cons_self] at hb
    rw [List.append_cons] at hlt ⊢
    obtain ⟨ft, hcount, hft⟩ := countByte_of_counts (s := s.readPast 1) (v := b) hft (by omega)
    obtain ⟨ft', hloop, hft'⟩ := ih (s := (s.readPast 1).setFt ft) (n + 1#64) hio hft hnext hlt
    refine ⟨ft', ?_, hft'⟩
    have hlen : n + 1#64 + BitVec.ofNat 64 bs.length = n + BitVec.ofNat 64 (bs.length + 1) := by
      rw [BitVec.add_assoc, BitVec.ofNat_add, BitVec.add_comm 1#64]
    have hpass : scanLoop (bs.length + 1) n s =
        (countByte b >>= fun _ => scanLoop bs.length (n + 1#64)) (s.readPast 1) := by
      rw [scanLoop_succ, srcByte_of_unread_cons hio hbs]
    rw [List.length_cons, hpass, Cmd.run_bind_ok hcount, hloop, hlen,
      State.setFt_readPast, State.readPast_readPast, State.setFt_setFt, Nat.add_comm 1]

theorem length_unread (s : State) : (unread s).length = bytesLeft s := length_memBytes _ _ _

/-- FREQ_SCAN reads all that is unread and returns its length (40_frequency_table.md R82). -/
theorem freqScan_counts {s : State} (hio : s.env.ioFaults = []) (hlt : ∀ x, (unread s).count x < 2 ^ 32) :
    Completes freqScan s fun n t => n = BitVec.ofNat 64 (unread s).length ∧
      ∃ ft, Counts ft (unread s) ∧ t = (s.dropTree.readPast (unread s).length).setFt ft := by
  obtain ⟨ft, hloop, hft⟩ := scanLoop_of_counts (s := s.dropTree.setFt ftEmpty) (done := []) 0#64 hio counts_ftEmpty
    rfl hlt
  refine completes_bind_of_ok (ftClear_eq s) (completes_bind_of_ok (Cmd.run_getState _) (completes_of_ok ?_
    ⟨BitVec.zero_add _, ft, hft, rfl⟩))
  rw [← length_unread]
  exact hloop

/-- The length of an input is the sum of its counts. -/
theorem length_le_of_count_lt {bs : List Byte} {m : Nat} (h : ∀ x, bs.count x < m) : bs.length ≤ 256 * m := by
  have hcard : bs.toFinset.card ≤ 256 := by
    have hsub : bs.toFinset ⊆ allSyms.toFinset := fun x _ => List.mem_toFinset.2 (mem_allSyms x)
    exact (Finset.card_le_card hsub).trans ((List.toFinset_card_le _).trans length_allSyms.le)
  calc bs.length = ∑ x ∈ bs.toFinset, bs.count x := (List.sum_toFinset_count_eq_length bs).symm
    _ ≤ bs.toFinset.card * m := Finset.sum_le_card_nsmul _ _ _ fun x _ => (h x).le
    _ ≤ 256 * m := Nat.mul_le_mul_right m hcard

end Sys2Proof.Machine
end

section
/-! The encoder's writes (44_bit_writer.md R116 to R118, 47_compress_sequencer.md R144, R145): bits join those already packed
after a header, the close fills the last byte with zeros, the patch touches byte 11 alone. -/
namespace Sys2Proof.Machine

theorem bytesBits_append (as bs : List Byte) : bytesBits (as ++ bs) = bytesBits as ++ bytesBits bs :=
  List.flatMap_append

theorem length_bytesBits (bs : List Byte) : (bytesBits bs).length = 8 * bs.length := by
  simp [bytesBits, List.length_flatMap, Nat.mul_comm]

theorem length_outBytes (s : State) : (outBytes s).length = s.sink.len.toNat := length_memBytes _ _ _

/-- OUT is this header and whole bytes of these bits after it; the bits that fill no byte yet are in the writer. The codes
and IN are those of the encoder. -/
structure Packed (c : Codes) (x : Stream) (h : List Byte) (bits : List Bool) (s : State) : Prop where
  codes : s.codes = c
  src : s.src = x
  noFaults : s.env.ioFaults = []
  atEnd : s.sink.pos = s.sink.len
  wf : s.sink.mem.wf
  clean : s.bw.Clean
  bytes : ∃ bytes, outBytes s = h ++ bytes ∧ bytesBits bytes ++ pendingBits s.bw = bits

section
variable {c : Codes} {x : Stream} {h : List Byte} {bits : List Bool} {s : State}

/-- OUT is no longer than the header and one byte for each bit. -/
theorem Packed.len_le (hs : Packed c x h bits s) : s.sink.len.toNat ≤ h.length + bits.length := by
  obtain ⟨bytes, hout, hbits⟩ := hs.bytes
  have hlen := congrArg List.length hout
  have hbits := congrArg List.length hbits
  rw [length_outBytes, List.length_append] at hlen
  rw [List.length_append, length_bytesBits] at hbits
  omega

/-! ### One bit -/

/-- The bits of the byte with one more placed. -/
theorem bits_place (w : BitWriter) (b : Bool) :
    ((List.range (w.nbits.toNat + 1)).map fun j => (w.place b).cur.getLsbD (7 - j)) = pendingBits w ++ [b] := by
  have hn := w.nbits.isLt
  rw [List.range_succ, List.map_append, pendingBits]
  congr 1
  · refine List.map_congr_left fun j hj => ?_
    have hj := List.mem_range.1 hj
    rw [BitWriter.place_cur, getLsbD_putBit _ _ (by omega) (by omega), if_neg (by omega)]
  · rw [List.map_singleton, BitWriter.place_cur, getLsbD_putBit _ _ (by omega) (by omega), if_pos rfl]

theorem toNat_nbits_succ {n : BitVec 3} (h : n ≠ 7#3) : (n + 1#3).toNat = n.toNat + 1 := by bv_omega

theorem packed_writeBit_of_not_full (hs : Packed c x h bits s) (b : Bool) (hn : s.bw.nbits ≠ 7#3) :
    Completes (writeBit b) s fun _ t => Packed c x h (bits ++ [b]) t := by
  have hsucc := toNat_nbits_succ hn
  refine completes_of_ok (writeBit_eq_place b hn) { hs with clean := fun j hj => ?_, bytes := ?_ }
  · have hj : j < 8 - (s.bw.nbits + 1#3).toNat := hj
    show (s.bw.place b).cur.getLsbD j = false
    rw [BitWriter.place_cur, getLsbD_putBit _ _ (by omega) (by omega), if_neg (by omega)]
    exact hs.clean j (by omega)
  · obtain ⟨bytes, hout, hbits⟩ := hs.bytes
    refine ⟨bytes, hout, ?_⟩
    rw [← hbits, List.append_assoc, ← bits_place, ← hsucc]
    rfl

@[simp] theorem State.appendByte_codes (s : State) (v : Byte) : (s.appendByte v).codes = s.codes := rfl

@[simp] theorem State.appendByte_src (s : State) (v : Byte) : (s.appendByte v).src = s.src := rfl

@[simp] theorem State.appendByte_ioFaults (s : State) (v : Byte) : (s.appendByte v).env.ioFaults = s.env.ioFaults := rfl

theorem clean_flushed (w : BitWriter) : w.flushed.Clean := fun _ _ => BitVec.getLsbD_zero

theorem packed_writeBit_of_full (hs : Packed c x h bits s) (b : Bool) (hn : s.bw.nbits = 7#3)
    (hroom : h.length + bits.length + 1 < 2 ^ 64) :
    Completes (writeBit b) s fun _ t => Packed c x h (bits ++ [b]) t := by
  have hlen := hs.len_le
  have hsent := sinkByte_of_canAppend (s := s.setBw (s.bw.place b)) (n := 0) (s.bw.place b).cur
    ⟨noneFails_of_nil hs.noFaults _, hs.atEnd, by rw [State.setBw_sink]; omega, hs.wf⟩
  obtain ⟨hsent, happ⟩ := hsent
  obtain ⟨bytes, hout, hbits⟩ := hs.bytes
  refine completes_of_ok (writeBit_of_full hn hsent) ⟨by simp [hs.codes], by simp [hs.src],
    by simp [hs.noFaults], happ.atEnd, happ.wf, clean_flushed _, bytes ++ [(s.bw.place b).cur], ?_, ?_⟩
  · rw [← List.append_assoc, ← hout]
    exact outBytes_append (s := s) rfl hs.atEnd (by omega) hs.wf
  · have hbyte : bytesBits [(s.bw.place b).cur] = pendingBits s.bw ++ [b] := by
      rw [← bits_place, hn, bytesBits, List.flatMap_singleton]
      rfl
    rw [← hbits, bytesBits_append, hbyte, ← List.append_assoc (bytesBits bytes)]
    exact List.append_nil _

theorem packed_writeBit (hs : Packed c x h bits s) (b : Bool) (hroom : h.length + bits.length + 1 < 2 ^ 64) :
    Completes (writeBit b) s fun _ t => Packed c x h (bits ++ [b]) t := by
  by_cases hn : s.bw.nbits = 7#3
  · exact packed_writeBit_of_full hs b hn hroom
  · exact packed_writeBit_of_not_full hs b hn

/-! ### Codes and bytes -/

theorem packed_writeBitsFrom (hs : Packed c x h bits s) (v : Pattern) (i n : Nat)
    (hroom : h.length + bits.length + n < 2 ^ 64) :
    Completes (writeBitsFrom v i n) s fun _ t =>
      Packed c x h (bits ++ (List.range n).map fun j => v.getLsbD (i + j)) t := by
  induction n generalizing s bits i with
  | zero => exact completes_of_ok (Cmd.run_pure () s) (by simpa using hs)
  | succ n ih =>
    rw [Completes, writeBitsFrom_succ]
    refine completes_bind (packed_writeBit hs _ (by omega)) fun _ t ht => ?_
    refine completes_mono (ih ht (i + 1) ?_) fun _ u hu => ?_
    · rw [List.length_append, List.length_singleton]
      omega
    · rw [List.range_succ_eq_map, List.map_cons, List.map_map, List.append_cons]
      simpa only [Function.comp_def, Nat.succ_eq_add_one, Nat.add_zero, Nat.add_comm, Nat.add_left_comm] using hu

theorem packed_encodeByte (hs : Packed c x h bits s) {v : Byte} (hv : (ctAt c.ct v).valid = true)
    (hroom : h.length + bits.length + (codeBits (ctAt c.ct v)).length < 2 ^ 64) :
    Completes (encodeByte v) s fun _ t => Packed c x h (bits ++ codeBits (ctAt c.ct v)) t := by
  have hlen : (codeBits (ctAt c.ct v)).length = (ctAt c.ct v).len.toNat := by simp [codeBits, patternBits]
  rw [Completes, encodeByte_eq, hs.codes, if_pos hv]
  refine completes_mono (packed_writeBitsFrom hs (ctAt c.ct v).bits 0 _ (hlen ▸ hroom)) fun _ t ht => ?_
  simpa only [Nat.zero_add, codeBits, patternBits] using ht

/-- The encoder's loop packs the codes of all that is unread (47_compress_sequencer.md R144). -/
theorem packed_encodeLoop {bs : List Byte} (hs : Packed c x h bits s) (hbs : unread s = bs)
    (hv : ∀ v ∈ bs, (ctAt c.ct v).valid = true)
    (hroom : h.length + bits.length + (payloadBits c.ct bs).length < 2 ^ 64) :
    Completes (encodeLoop bs.length) s fun _ t => ∃ y, Packed c y h (bits ++ payloadBits c.ct bs) t := by
  induction bs generalizing s bits x with
  | nil => exact completes_of_ok (Cmd.run_pure () s) ⟨x, by simpa [payloadBits] using hs⟩
  | cons v vs ih =>
    have hpay : payloadBits c.ct (v :: vs) = codeBits (ctAt c.ct v) ++ payloadBits c.ct vs := List.flatMap_cons
    rw [hpay, List.length_append] at hroom
    have hpass : encodeLoop (vs.length + 1) s = (encodeByte v >>= fun _ => encodeLoop vs.length) (s.readPast 1) := by
      rw [encodeLoop_succ, srcByte_of_unread_cons hs.noFaults hbs]
    obtain ⟨-, -, hnext⟩ := unread_eq_cons hbs
    have hread : Packed c (s.readPast 1).src h bits (s.readPast 1) := { hs with src := rfl }
    rw [Completes, List.length_cons, hpass, hpay, ← List.append_assoc]
    refine completes_bind (packed_encodeByte hread (hv v List.mem_cons_self) (by omega)) fun _ t ht => ?_
    refine ih ht ?_ (fun w hw => hv w (List.mem_cons_of_mem v hw)) ?_
    · exact (unread_congr ht.src).trans hnext
    · rw [List.length_append]
      omega

theorem packed_encodeStream (hs : Packed c x h bits s) (hc : c.valid = true)
    (hv : ∀ v ∈ unread s, (ctAt c.ct v).valid = true)
    (hroom : h.length + bits.length + (payloadBits c.ct (unread s)).length < 2 ^ 64) :
    Completes encodeStream s fun _ t => ∃ y, Packed c y h (bits ++ payloadBits c.ct (unread s)) t := by
  have hvalid : hasCodes s = true := (congrArg Codes.valid hs.codes).trans hc
  refine completes_bind_of_ok (need_of_set hvalid) (completes_bind_of_ok (Cmd.run_getState s) ?_)
  rw [← length_unread]
  exact packed_encodeLoop hs rfl hv hroom

/-! ### The last byte and the patch -/

/-- OUT is the header and a payload of these bits, filled with zeros. -/
structure Closed (h : List Byte) (bits : List Bool) (s : State) : Prop where
  noFaults : s.env.ioFaults = []
  wf : s.sink.mem.wf
  bytes : ∃ payload k, outBytes s = h ++ payload ∧ bytesBits payload = bits ++ List.replicate k false

theorem closed_bwClose (hs : Packed c x h bits s) (hroom : h.length + bits.length + 1 < 2 ^ 64) :
    Completes bwClose s fun pad t => pad ≤ 7#8 ∧ Closed h bits t := by
  have hlen := hs.len_le
  obtain ⟨bytes, hout, hbits⟩ := hs.bytes
  by_cases hn : s.bw.nbits = 0#3
  · refine completes_of_ok (bwClose_of_aligned hn) ⟨by decide, hs.noFaults, hs.wf, bytes, 0, hout, ?_⟩
    rw [← hbits, pendingBits, hn]
    simp
  · obtain ⟨hsent, happ⟩ := sinkByte_of_canAppend (s := s) (n := 0) s.bw.cur
      ⟨noneFails_of_nil hs.noFaults _, hs.atEnd, by omega, hs.wf⟩
    refine completes_of_ok (bwClose_of_partial hn hsent) ⟨by bv_omega, hs.noFaults, happ.wf,
      bytes ++ [s.bw.cur], 8 - s.bw.nbits.toNat, ?_, ?_⟩
    · rw [← List.append_assoc, ← hout]
      exact outBytes_append (s := s) rfl hs.atEnd (by omega) hs.wf
    · rw [← hbits, bytesBits_append, bytesBits_cur_of_clean hs.clean, List.append_assoc]

end

theorem memBytes_memWrite {m : Memory} (hm : m.wf) (a n : Nat) (b : Byte) :
    memBytes (memWrite m a b) 0 n = (memBytes m 0 n).set a b := by
  refine List.ext_getElem? fun i => ?_
  obtain hi | hi := Nat.lt_or_ge i n
  · rw [getElem?_memBytes _ _ _ _ hi, List.getElem?_set, getElem?_memBytes _ _ _ _ hi, Nat.zero_add,
      memRead_memWrite a b hm, length_memBytes]
    by_cases ha : a = i
    · simp [ha, hi]
    · simp [ha, Ne.symm ha]
  · rw [List.getElem?_eq_none (by simpa using hi), List.getElem?_eq_none (by simpa using hi)]

/-- The patch overwrites paddingBits of the header alone (47_compress_sequencer.md R145). -/
theorem patchPadding_header {s : State} {z : Word} {n p pad : Byte} {es : List HdrEntry} {payload : List Byte}
    (hio : s.env.ioFaults = []) (hwf : s.sink.mem.wf) (hpad : pad ≤ 7#8)
    (hout : outBytes s = headerOf z n p es ++ payload) :
    Completes (patchPadding pad) s fun _ t => outBytes t = headerOf z n pad es ++ payload := by
  have hlen := congrArg List.length hout
  rw [length_outBytes, List.length_append, length_headerOf] at hlen
  have hlt : Config.padOffset < s.sink.len := by
    rw [BitVec.lt_def, Config.padOffset, BitVec.toNat_ofNat]
    omega
  refine completes_of_ok ((patchPadding_eq_sinkPatch hpad hlt).trans
    (sinkPatch_of_not_ioFails pad (ioFails_of_nil hio _ _))) ?_
  have hset : (headerOf z n p es ++ payload).set 11 pad = headerOf z n pad es ++ payload := by
    rw [headerOf_eq_cons, headerOf_eq_cons]
    obtain ⟨b0, b1, b2, b3, b4, b5, b6, b7, hb⟩ : ∃ b0 b1 b2 b3 b4 b5 b6 b7,
        be64Bytes z = [b0, b1, b2, b3, b4, b5, b6, b7] := ⟨_, _, _, _, _, _, _, _, rfl⟩
    rw [hb]
    rfl
  rw [← hset, ← hout]
  exact memBytes_memWrite hwf 11 _ pad

end Sys2Proof.Machine
end

section
/-! COMPRESS on an input of 1 to 255 distinct byte values with the default oracle (47_compress_sequencer.md R141, R148): its
output is a container of that input. -/
namespace Sys2Proof.Machine

/-- The bytes are a header with these fields, then a payload of these bits, filled with zeros (30_encoding.md R60, R66). -/
def Layout (z : Word) (n : Byte) (es : List HdrEntry) (bits : List Bool) (out : List Byte) : Prop :=
  ∃ pad payload k, bytesBits payload = bits ++ List.replicate k false ∧ out = headerOf z n pad es ++ payload

/-- COMPRESS from ENCODE_STREAM on (47_compress_sequencer.md R141). -/
def payloadSteps : Cmd Unit := do
  encodeStream
  seqStep 7#4
  let pad ← bwClose
  seqStep 8#4
  patchPadding pad
  seqStep 0#4

/-- COMPRESS from SINK_OPEN on (47_compress_sequencer.md R141). -/
def containerSteps (size : Word) : Cmd Unit := do
  sinkOpen
  cfWriteHeader 0#8 size
  seqStep 6#4
  srcOpen
  bwInit
  payloadSteps

/-- COMPRESS from TB_BUILD on (47_compress_sequencer.md R141). -/
def encodeSteps (size : Word) : Cmd Unit := do
  tbBuild
  cgGenerate
  cgVerify
  seqStep 5#4
  containerSteps size

theorem compress_eq_steps :
    compress = (do
      seqStep 1#4
      srcOpen
      let size ← freqScan
      checkAlphabet
      seqStep 4#4
      encodeSteps size) := rfl

/-- The bytes are a container of the input (30_encoding.md R60, R66): a header of its length and its counts, then a payload of
codes that spell it in the shape which TB_BUILD makes of these counts under this TIEBREAK. -/
structure Contains (rank : List PqEntry) (input : List Byte) (ft : Vector FtEntry 256) (T : Shape)
    (container : List Byte) : Prop where
  counts : Counts ft input
  fits : T.Fits
  spelled : ∀ x ∈ input, some x ∈ T.leaves
  built : ∀ u : State, u.ft = ft → u.env.tieRank = rank → Completes tbBuild u fun _ v => Built u T v
  layout : Layout (BitVec.ofNat 64 input.length) (BitVec.ofNat 8 (ftN ft)) (entriesOf ft) (payloadBits T.codes input)
    container

theorem seqStep_eq (n : BitVec 4) (s : State) : seqStep n s = .ok () (s.setSeqStep n) := rfl

theorem checkAlphabet_of_ok {s : State} (h0 : ftN s.ft ≠ 0) (h : ftN s.ft ≤ 255) :
    checkAlphabet s = .ok () (s.setSeqStep 3#4) := by
  have hmax : ¬ Config.maxSyms < ftN s.ft := Nat.not_lt.2 h
  rw [checkAlphabet, Cmd.run_bind_ok (seqStep_eq _ _), Cmd.run_bind_ok (Cmd.run_getState _), State.setSeqStep_ft,
    if_neg h0, Cmd.run_bind_ok (seqStep_eq _ _), if_neg hmax]
  rfl

theorem inBytes_congr {s t : State} (h : s.src.mem = t.src.mem) (h' : s.src.len = t.src.len) :
    inBytes s = inBytes t := by
  rw [inBytes, inBytes, h, h']

/-- What the scan leaves for the rest of COMPRESS: the input and its table. -/
structure Scanned (rank : List PqEntry) (input : List Byte) (ft : Vector FtEntry 256) (s : State) : Prop where
  input : inBytes s = input
  ft : s.ft = ft
  rank : s.env.tieRank = rank
  noFaults : s.env.ioFaults = []
  wf : s.sink.mem.wf

/-- What steps 1 to 4 leave for the rest of COMPRESS: the input, its table and its codes. -/
structure Analysed (input : List Byte) (ft : Vector FtEntry 256) (T : Shape) (s : State) : Prop where
  input : inBytes s = input
  ft : s.ft = ft
  codes : s.codes = { ct := T.codes, valid := true }
  noFaults : s.env.ioFaults = []
  wf : s.sink.mem.wf

/-! ### Steps 5 to 8 -/

/-- Bytes appended touch the environment and OUT alone. -/
theorem foldl_appendByte_frame {s : State} {bs : List Byte} (h : CanAppend s bs.length) :
    ∃ (e : Env) (x : Stream), bs.foldl State.appendByte s = (s.setEnv e).setSink x ∧
      e.ioFaults = s.env.ioFaults ∧ x.pos = x.len ∧ x.mem.wf := by
  induction bs generalizing s with
  | nil => exact ⟨s.env, s.sink, rfl, rfl, h.atEnd, h.wf⟩
  | cons b bs ih => exact ih (sinkByte_of_canAppend b h).2

theorem outBytes_of_len_zero {s : State} (h : s.sink.len = 0#64) : outBytes s = [] := by
  rw [outBytes, h]
  rfl

/-- A header that is not refused, at the start of OUT (46_container_format.md R131). -/
theorem cfWriteHeader_of_analysed {input : List Byte} {ft : Vector FtEntry 256} {T : Shape} {s : State}
    (h : Analysed input ft T s) (z : Word) (hn : ftN ft ≤ 255) (hpos : s.sink.pos = 0#64) (hlen : s.sink.len = 0#64) :
    Completes (cfWriteHeader 0#8 z) s fun _ t => Analysed input ft T t ∧ t.sink.pos = t.sink.len ∧
      outBytes t = headerOf z (BitVec.ofNat 8 (ftN ft)) 0#8 (entriesOf ft) := by
  obtain ⟨rfl, rfl, hcodes, hio, hwf⟩ := h
  have happ : CanAppend s (headerOf z (BitVec.ofNat 8 (ftN s.ft)) 0#8 (entriesOf s.ft)).length := by
    rw [length_headerOf, length_entriesOf]
    exact ⟨noneFails_of_nil hio _, hpos.trans hlen.symm, by rw [hlen, BitVec.toNat_zero]; omega, hwf⟩
  have hout := outBytes_foldl_appendByte happ
  rw [outBytes_of_len_zero hlen, List.nil_append] at hout
  obtain ⟨e, x, hfold, he, hx, hxwf⟩ := foldl_appendByte_frame happ
  have hmax : ¬ Config.maxSyms < ftN s.ft := Nat.not_lt.2 hn
  have hrun : cfWriteHeader 0#8 z s = .ok () ((s.setEnv e).setSink x) := by
    rw [cfWriteHeader_eq, if_neg hmax, if_neg (by decide), headerBytes_eq_headerOf, sinkBytes_of_canAppend happ, hfold]
  exact completes_of_ok hrun ⟨⟨rfl, rfl, hcodes, he.trans hio, hxwf⟩, hx, hfold ▸ hout⟩

theorem unread_at_start {s : State} (h : s.src.pos = 0#64) : unread s = inBytes s := by
  rw [unread, bytesLeft, h]
  rfl

/-- The writer begins after the header, with the whole input unread. -/
theorem packed_nil {input h : List Byte} {ft : Vector FtEntry 256} {T : Shape} {s : State} (hs : Analysed input ft T s)
    (hend : s.sink.pos = s.sink.len) (hout : outBytes s = h) (n : BitVec 4) :
    Packed { ct := T.codes, valid := true } { s.src with pos := 0#64 } h []
      (((s.setSeqStep n).setSrc { (s.setSeqStep n).src with pos := 0#64 }).setBw BitWriter.init) :=
  ⟨hs.codes, rfl, hs.noFaults, hend, hs.wf, clean_flushed BitWriter.init, [],
    hout.trans (List.append_nil h).symm, rfl⟩

/-- The payload after the header, its close and the patch of paddingBits (47_compress_sequencer.md R141, steps 6 to 8). -/
theorem encodePayload {c : Codes} {x : Stream} {z : Word} {n p : Byte} {es : List HdrEntry} {s : State}
    (hs : Packed c x (headerOf z n p es) [] s) (hc : c.valid = true) (hv : ∀ v ∈ unread s, (ctAt c.ct v).valid = true)
    (hroom : (headerOf z n p es).length + (payloadBits c.ct (unread s)).length + 1 < 2 ^ 64) :
    Completes payloadSteps s fun _ t => Layout z n es (payloadBits c.ct (unread s)) (outBytes t) := by
  refine completes_bind (packed_encodeStream hs hc hv (by rw [List.length_nil]; omega)) fun _ t ⟨y, ht⟩ => ?_
  have ht : Packed c y (headerOf z n p es) (payloadBits c.ct (unread s)) (t.setSeqStep 7#4) := { ht with }
  refine completes_bind_of_ok (seqStep_eq _ t) (completes_bind (closed_bwClose ht hroom) fun pad u ⟨hpad, hu⟩ => ?_)
  obtain ⟨hio, hwf, payload, k, hout, hbits⟩ := hu
  refine completes_bind_of_ok (seqStep_eq _ u) ?_
  refine completes_bind (patchPadding_header (s := u.setSeqStep 8#4) hio hwf hpad hout) fun _ v hv => ?_
  exact completes_of_ok (seqStep_eq _ v) ⟨pad, payload, k, hbits, hv⟩

/-- The container written from the codes (47_compress_sequencer.md R141, steps 5 to 8). -/
theorem writeContainer {input : List Byte} {ft : Vector FtEntry 256} {T : Shape} {s : State}
    (h : Analysed input ft T s) (z : Word) (hn : ftN ft ≤ 255) (hv : ∀ x ∈ input, (ctAt T.codes x).valid = true)
    (hroom : (payloadBits T.codes input).length + 2048 < 2 ^ 64) :
    Completes (containerSteps z) s fun _ t =>
      Layout z (BitVec.ofNat 8 (ftN ft)) (entriesOf ft) (payloadBits T.codes input) (outBytes t) := by
  have hopen : Analysed input ft T (s.setSink { s.sink with len := 0#64, pos := 0#64 }) :=
    ⟨h.input, h.ft, h.codes, h.noFaults, h.wf⟩
  refine completes_bind_of_ok (sinkOpen_eq s) (completes_bind (cfWriteHeader_of_analysed hopen z hn rfl rfl)
    fun _ t ⟨ht, hend, hout⟩ => ?_)
  have hpacked := packed_nil ht hend hout 6#4
  have hunread : unread (((t.setSeqStep 6#4).setSrc { (t.setSeqStep 6#4).src with pos := 0#64 }).setBw
      BitWriter.init) = input := (unread_at_start rfl).trans ht.input
  refine completes_bind_of_ok (seqStep_eq _ t) (completes_bind_of_ok (srcOpen_eq _)
    (completes_bind_of_ok (bwInit_eq _) ?_))
  generalize ((t.setSeqStep 6#4).setSrc { (t.setSeqStep 6#4).src with pos := 0#64 }).setBw BitWriter.init = u at *
  subst hunread
  have hlen : (headerOf z (BitVec.ofNat 8 (ftN ft)) 0#8 (entriesOf ft)).length +
      (payloadBits T.codes (unread u)).length + 1 < 2 ^ 64 := by
    rw [length_headerOf, length_entriesOf]
    omega
  exact (encodePayload hpacked rfl hv hlen :)

/-! ### The whole -/

theorem length_payloadBits_le (ct : Vector Code 256) (bs : List Byte) :
    (payloadBits ct bs).length ≤ 256 * bs.length := by
  induction bs with
  | nil => exact Nat.le_refl 0
  | cons b bs ih =>
    have hlt := (ctAt ct b).len.isLt
    have hlen : (codeBits (ctAt ct b)).length = (ctAt ct b).len.toNat := by simp [codeBits, patternBits]
    rw [payloadBits] at ih ⊢
    rw [List.flatMap_cons, List.length_append, hlen, List.length_cons]
    omega

/-- TB_BUILD leaves the input, the table, the parameters and OUT (42_tree_builder.md R95). -/
theorem Built.scanned {rank : List PqEntry} {input : List Byte} {ft : Vector FtEntry 256} {T : Shape} {s t : State}
    (ht : Built s T t) (h : Scanned rank input ft s) : Scanned rank input ft t := by
  obtain ⟨hframe, -⟩ := ht
  rw [hframe]
  exact ⟨h.input, h.ft, h.rank, h.noFaults, h.wf⟩

/-- The tree and its codes, then the container (47_compress_sequencer.md R141, steps 4 to 8). -/
theorem encodeScanned {rank : List PqEntry} {input : List Byte} {ft : Vector FtEntry 256} {T : Shape} {s : State}
    (h : Scanned rank input ft s) (z : Word) (hT : T.Fits) (hbuilt : Completes tbBuild s fun _ t => Built s T t)
    (hn : ftN ft ≤ 255) (hspelled : ∀ x ∈ input, some x ∈ T.leaves)
    (hroom : (payloadBits T.codes input).length + 2048 < 2 ^ 64) :
    Completes (encodeSteps z) s fun _ t =>
      Layout z (BitVec.ofNat 8 (ftN ft)) (entriesOf ft) (payloadBits T.codes input) (outBytes t) := by
  refine completes_bind hbuilt fun _ t ht => ?_
  have h := ht.scanned h
  obtain ⟨-, hvalid, hroot⟩ := ht
  have hanalysed : Analysed input ft T ((t.setCodes { ct := T.codes, valid := true }).setSeqStep 5#4) :=
    ⟨h.input, h.ft, rfl, h.noFaults, h.wf⟩
  have hv : ∀ x ∈ input, (ctAt T.codes x).valid = true := fun x hx => (hT.codes_of_mem (hspelled x hx)).1
  have hdone := writeContainer hanalysed z hn hv hroom
  have hverify : cgVerify (t.setCodes { ct := T.codes, valid := true }) = .ok () _ := cgVerify_of_codes_eq hT rfl
  exact completes_bind_of_ok (cgGenerate_of_shows hT hvalid hroot) (completes_bind_of_ok hverify
    (completes_bind_of_ok (seqStep_eq _ _) hdone))

/-- The scan of the whole input (47_compress_sequencer.md R141, step 1). -/
theorem scanned_freqScan {s : State} (hpos : s.src.pos = 0#64) (hio : s.env.ioFaults = []) (hwf : s.sink.mem.wf)
    (hlt : ∀ x, (inBytes s).count x < 2 ^ 32) :
    Completes freqScan s fun n t => n = BitVec.ofNat 64 (inBytes s).length ∧
      ∃ ft, Counts ft (inBytes s) ∧ Scanned s.env.tieRank (inBytes s) ft t := by
  have hscan := freqScan_counts hio ((unread_at_start hpos).symm ▸ hlt)
  rw [unread_at_start hpos] at hscan
  refine completes_mono hscan fun n t ⟨hn, ft, hft, ht⟩ => ⟨hn, ft, hft, ?_⟩
  rw [ht]
  exact ⟨inBytes_congr rfl rfl, rfl, rfl, hio, hwf⟩

/-- COMPRESS of an admitted input leaves a container of it (47_compress_sequencer.md R148). -/
theorem compress_contains {s : State} (hio : s.env.ioFaults = []) (hwf : s.sink.mem.wf) (hne : inBytes s ≠ [])
    (hlack : ∃ x, x ∉ inBytes s) (hlt : ∀ x, (inBytes s).count x < 2 ^ 32) :
    Completes compress s fun _ t => ∃ ft T, Contains s.env.tieRank (inBytes s) ft T (outBytes t) := by
  rw [Completes, compress_eq_steps]
  have hlen : (inBytes s).length ≤ 256 * 2 ^ 32 := length_le_of_count_lt hlt
  have hscan := scanned_freqScan (s := (s.setSeqStep 1#4).setSrc { (s.setSeqStep 1#4).src with pos := 0#64 })
    rfl hio hwf hlt
  refine completes_bind_of_ok (seqStep_eq _ s) (completes_bind_of_ok (srcOpen_eq _)
    (completes_bind hscan fun n t ⟨hn, ft, hcounts, ht⟩ => ?_))
  have hsyms : presentSyms t.ft ≠ [] := ht.ft ▸ hcounts.presentSyms_ne_nil hne
  have hle : ftN t.ft ≤ 255 := ht.ft ▸ hcounts.ftN_le hlack
  obtain ⟨T, hT, hmem, hbuilt⟩ := exists_shape hsyms hle
  have hspelled : ∀ x ∈ inBytes s, some x ∈ T.leaves := fun x hx =>
    hmem x (ht.ft ▸ hcounts.mem_presentSyms.2 hx)
  have hbits := length_payloadBits_le T.codes (inBytes s)
  have hstart : Scanned s.env.tieRank (inBytes s) ft ((t.setSeqStep 3#4).setSeqStep 4#4) :=
    ⟨ht.input, ht.ft, ht.rank, ht.noFaults, ht.wf⟩
  have hdone := encodeScanned hstart n hT (hbuilt _ rfl rfl) (ht.ft ▸ hle) hspelled (by omega)
  refine completes_bind_of_ok (checkAlphabet_of_ok (mt List.length_eq_zero_iff.1 hsyms) hle)
    (completes_bind_of_ok (seqStep_eq _ _) (completes_mono hdone fun _ u hu => ?_))
  refine ⟨ft, T, hcounts, hT, hspelled, fun w hw hr => ?_, hn ▸ hu⟩
  exact hbuilt w (hw.trans ht.ft.symm) (hr.trans ht.rank.symm)

end Sys2Proof.Machine
end

section
/-! DEC_STREAM on a payload that spells an input in the shape at ROOT (48_decode_traversal.md R157, R159): a bit leaves the
reader, the traversal moves down the shape, each path to a leaf gives one symbol. -/
namespace Sys2Proof.Machine

/-- A decode under way: the tree and the size stay, the traversal stands at this node, these bits are still to be read and
these symbols are out. -/
structure Decoding (t : Tree) (z : Word) (i : NodeIx) (bits : List Bool) (out : List Byte) (s : State) : Prop where
  tree : s.tree = t
  size : s.hdr.size = z
  dec : s.dec = { cur := i, count := BitVec.ofNat 64 out.length, valid := true }
  left : s.br.left ≤ 8#4
  unfinished : s.br.finished = false
  bits : readerBits s.br ++ bytesBits (unread s) = bits
  out : outBytes s = out
  noFaults : s.env.ioFaults = []
  atEnd : s.sink.pos = s.sink.len
  wf : s.sink.mem.wf

/-! ### One bit -/

theorem readerBits_of_empty {r : BitReader} (h : r.left = 0#4) : readerBits r = [] := by
  rw [readerBits, h]
  rfl

/-- The first bit in hand, then the others. -/
theorem readerBits_eq_cons {r : BitReader} (h : r.left ≠ 0#4) :
    readerBits r = r.cur.getLsbD (r.left.toNat - 1) :: readerBits { r with left := r.left - 1#4 } := by
  have hsucc : r.left.toNat = (r.left - 1#4).toNat + 1 := by bv_omega
  rw [readerBits, readerBits, hsucc, List.range_succ_eq_map, List.map_cons, List.map_map]
  congr 1
  refine List.map_congr_left fun j _ => ?_
  show r.cur.getLsbD _ = r.cur.getLsbD ((r.left - 1#4).toNat - 1 - j)
  congr 1
  omega

/-- The bits of a fetched byte: its bit 7, then the seven in hand after it. -/
theorem bytesBits_cons (b : Byte) (bs : List Byte) :
    bytesBits (b :: bs) =
      b.getLsbD 7 :: readerBits { cur := b, left := 7#4, finished := false } ++ bytesBits bs := by
  rw [bytesBits, List.flatMap_cons]
  rfl

section
variable {t : Tree} {z : Word} {i : NodeIx} {b : Bool} {bits : List Bool} {out : List Byte} {s : State}

theorem decoding_readBit_of_left (hs : Decoding t z i (b :: bits) out s) (h : s.br.left ≠ 0#4) :
    Completes readBit s fun c u => c = b ∧ Decoding t z i bits out u := by
  have hbits := hs.bits
  rw [readerBits_eq_cons h, List.cons_append, List.cons.injEq] at hbits
  have hleft := hs.left
  refine completes_of_ok (readBit_of_left h hs.left) ⟨hbits.1, { hs with left := ?_, bits := hbits.2 }⟩
  show s.br.left - 1#4 ≤ 8#4
  bv_omega

theorem decoding_readBit_of_empty (hs : Decoding t z i (b :: bits) out s) (h : s.br.left = 0#4) :
    Completes readBit s fun c u => c = b ∧ Decoding t z i bits out u := by
  have hbits := hs.bits
  rw [readerBits_of_empty h, List.nil_append] at hbits
  cases hun : unread s with
  | nil => rw [hun] at hbits; cases hbits
  | cons v vs =>
    obtain ⟨hlt, hread, hnext⟩ := unread_eq_cons hun
    have hnext : unread (s.fetched 7#4) = vs := hnext
    rw [hun, bytesBits_cons, List.cons_append, List.cons.injEq] at hbits
    refine completes_of_ok (readBit_of_pos_lt_len h hs.unfinished hlt (ioFails_of_nil hs.noFaults _ _))
      ⟨hread ▸ hbits.1, { hs with left := (by decide : 7#4 ≤ 8#4), unfinished := rfl, bits := ?_ }⟩
    rw [hnext, State.fetched, hread]
    exact hbits.2

theorem decoding_decReadBit (hs : Decoding t z i (b :: bits) out s) :
    Completes decReadBit s fun c u => c = b ∧ Decoding t z i bits out u := by
  have hread : Completes readBit s fun c u => c = b ∧ Decoding t z i bits out u := by
    by_cases h : s.br.left = 0#4
    · exact decoding_readBit_of_empty hs h
    · exact decoding_readBit_of_left hs h
  obtain ⟨c, u, hread, hu⟩ := hread
  exact completes_of_ok (decReadBit_of_ok hread) hu

/-! ### One move -/

theorem decoding_emitSymbol (hs : Decoding t z i bits out s) (x : Byte) (hroom : out.length + 1 < 2 ^ 64) :
    Completes (emitSymbol x) s fun _ u => Decoding t z t.root bits (out ++ [x]) u := by
  have hlen := length_outBytes s
  rw [hs.out] at hlen
  obtain ⟨hsent, happ⟩ := sinkByte_of_canAppend (s := s) (n := 0) x
    ⟨noneFails_of_nil hs.noFaults _, hs.atEnd, by omega, hs.wf⟩
  have hcount : s.dec.count = BitVec.ofNat 64 out.length := congrArg Decoder.count hs.dec
  have hmax : ¬ s.dec.count = BitVec.allOnes 64 := by
    intro he
    have he := congrArg BitVec.toNat (hcount.symm.trans he)
    rw [BitVec.toNat_ofNat, BitVec.toNat_allOnes] at he
    omega
  have hemit : emitSymbol x s = .ok (some x) ((s.appendByte x).setDec
      { s.dec with count := nextDecCount s.env.countAsk s.dec.count, cur := s.tree.root }) := by
    rw [emitSymbol_eq, hsent]
    rfl
  refine completes_of_ok hemit ⟨hs.tree, hs.size, ?_, hs.left, hs.unfinished, hs.bits, ?_, hs.noFaults, happ.atEnd,
    happ.wf⟩
  · show ({ s.dec with count := nextDecCount s.env.countAsk s.dec.count, cur := s.tree.root } : Decoder) = _
    rw [nextDecCount, if_neg hmax, hcount, hs.tree, hs.dec, List.length_append, BitVec.ofNat_add]
    rfl
  · rw [← hs.out]
    exact outBytes_append (s := s) rfl hs.atEnd (by omega) hs.wf

end

/-- The child that a branch decision leads to. -/
theorem Shows.childAt {t : Tree} {l r : Shape} {i : NodeIx} (h : Shows t (.node l r) i) (b : Bool) :
    Shows t (if b then r else l) (t.childAt i b) := by
  obtain ⟨-, -, hl, hr⟩ := h
  cases b
  · exact hl
  · exact hr

section
variable {t : Tree} {z : Word} {i : NodeIx} {b : Bool} {bits : List Bool} {out : List Byte} {s : State} {l r : Shape}

theorem Decoding.nodeAt (hs : Decoding t z i bits out s) {T : Shape} {c : NodeIx} (h : Shows t T c) :
    nodeAt s.tree.node c = some (recordAt t c.toNat) := by
  rw [hs.tree]
  exact h.nodeAt

/-- One bit of the traversal comes to the move it decides (48_decode_traversal.md R157). -/
theorem decStepBody_of_bit (hs : Decoding t z i (b :: bits) out s) (h : Shows t (.node l r) i)
    {Q : Option Byte → State → Prop}
    (hQ : ∀ u, Decoding t z i bits out u → Completes (descend (t.childAt i b)) u Q) :
    Completes decStepBody s Q := by
  refine completes_bind (decoding_decReadBit hs) fun c u ⟨hc, hu⟩ => ?_
  have hnode : nodeAt u.tree.node u.dec.cur = some (recordAt t i.toNat) := by
    rw [hu.dec]
    exact hu.nodeAt h
  refine completes_bind_of_ok (Cmd.run_getState u) (completes_bind_of_ok (readNode_of_nodeAt hnode) ?_)
  rw [hc]
  exact hQ u hu

theorem decStepBody_to_node (hs : Decoding t z i (b :: bits) out s) (h : Shows t (.node l r) i) {l' r' : Shape}
    (hchild : (if b then r else l) = .node l' r') :
    Completes decStepBody s fun _ u => Decoding t z (t.childAt i b) bits out u := by
  have hc := h.childAt b
  rw [hchild] at hc
  refine decStepBody_of_bit hs h fun u hu => ?_
  have hnode := hu.nodeAt hc
  have hnull := hc.ne_null
  obtain ⟨-, hkind, -⟩ := hc
  have hmove : descend (t.childAt i b) u = .ok none (u.setDec { u.dec with cur := t.childAt i b }) := by
    rw [descend_eq hnull hnode, hkind]
  refine completes_of_ok hmove { hu with dec := ?_ }
  show ({ u.dec with cur := t.childAt i b } : Decoder) = _
  rw [hu.dec]

theorem decStepBody_to_leaf (hs : Decoding t z i (b :: bits) out s) (h : Shows t (.node l r) i) {x : Byte}
    (hchild : (if b then r else l) = .leaf (some x)) (hroom : out.length + 1 < 2 ^ 64) :
    Completes decStepBody s fun _ u => Decoding t z t.root bits (out ++ [x]) u := by
  have hc := h.childAt b
  rw [hchild] at hc
  refine decStepBody_of_bit hs h fun u hu => ?_
  have hnode := hu.nodeAt hc
  have hnull := hc.ne_null
  obtain ⟨-, hkind, hfiller, hsym⟩ := hc
  have hmove : descend (t.childAt i b) u = emitSymbol x u := by
    rw [descend_eq hnull hnode, hkind, hfiller, hsym x rfl]
    rfl
  rw [Completes, hmove]
  exact decoding_emitSymbol hu x hroom

/-! ### The loop -/

theorem Decoding.more (hs : Decoding t z i bits out s) (hlt : out.length < z.toNat) :
    moreToDecode s = true := by
  have hz := z.isLt
  rw [Machine.moreToDecode, hs.size, hs.dec, decide_eq_true_iff, BitVec.lt_def, BitVec.toNat_ofNat]
  omega

theorem Decoding.no_more (hs : Decoding t z i bits out s) (hle : z.toNat = out.length) :
    moreToDecode s = false := by
  have hz := z.isLt
  rw [Machine.moreToDecode, hs.size, hs.dec, decide_eq_false_iff_not, BitVec.lt_def, BitVec.toNat_ofNat]
  omega

end

/-- A pass of the loop that completes. -/
theorem decodeLoop_of_completes {s : State} {Q : State → Prop} (hmore : moreToDecode s = true)
    (h : Completes decStepBody s fun _ u => Q u) (k : Nat) :
    ∃ u, decodeLoop (k + 1) s = decodeLoop k u ∧ Q u := by
  obtain ⟨o, u, hu, hQ⟩ := h
  exact ⟨u, (decodeLoop_succ hmore).trans (Cmd.run_bind_ok hu), hQ⟩

/-- A path to a real leaf gives its symbol, and the traversal is on the root again. -/
theorem decodeLoop_path {t : Tree} {z : Word} {q bits : List Bool} {out : List Byte} {x : Byte} {T : Shape} {i : NodeIx}
    {s : State} (hq : T.At q (some x)) (hne : q ≠ []) (hs : Decoding t z i (q ++ bits) out s) (h : Shows t T i)
    (hlt : out.length < z.toNat) (k : Nat) :
    ∃ u, decodeLoop (q.length + k) s = decodeLoop k u ∧ Decoding t z t.root bits (out ++ [x]) u := by
  have hz := z.isLt
  induction q generalizing T i s with
  | nil => exact absurd rfl hne
  | cons b p ih =>
    obtain ⟨l, r, rfl, hp⟩ := hq.of_cons
    rw [List.length_cons, Nat.add_right_comm]
    cases hchild : (if b then r else l) with
    | leaf o =>
      rw [hchild] at hp
      cases hp
      obtain ⟨u, hu, hdec⟩ := decodeLoop_of_completes (hs.more hlt)
        (decStepBody_to_leaf hs h hchild (by omega)) k
      exact ⟨u, by rw [List.length_nil, Nat.zero_add, hu], hdec⟩
    | node l' r' =>
      obtain ⟨u, hu, hdec⟩ := decodeLoop_of_completes (hs.more hlt) (decStepBody_to_node hs h hchild)
        (p.length + k)
      have hpne : p ≠ [] := by
        rintro rfl
        rw [hchild] at hp
        cases hp
      obtain ⟨v, hv, hdec⟩ := ih hp hpne hdec (h.childAt b)
      exact ⟨v, hu.trans hv, hdec⟩

/-- The loop on codes of the shape gives the bytes they spell (48_decode_traversal.md R159). -/
theorem decodeLoop_payload {t : Tree} {z : Word} {T : Shape} {ct : Vector Code 256} (hroot : Shows t T t.root)
    (hT : T.Fits) {bs : List Byte} (hct : ∀ x ∈ bs, T.At (codeBits (ctAt ct x)) (some x)) {rest : List Bool}
    {out : List Byte} {s : State} (hs : Decoding t z t.root (payloadBits ct bs ++ rest) out s)
    (hz : z.toNat = out.length + bs.length) (k : Nat) :
    Completes (decodeLoop ((payloadBits ct bs).length + k)) s fun _ u => outBytes u = out ++ bs := by
  induction bs generalizing out s with
  | nil =>
    exact completes_of_ok (decodeLoop_of_done (hs.no_more hz)) (hs.out.trans (List.append_nil out).symm)
  | cons b bs ih =>
    have hb := hct b List.mem_cons_self
    have hpay : payloadBits ct (b :: bs) = codeBits (ctAt ct b) ++ payloadBits ct bs := List.flatMap_cons
    rw [List.length_cons] at hz
    rw [hpay, List.append_assoc] at hs
    obtain ⟨u, hu, hdec⟩ := decodeLoop_path hb (hT.path_ne_nil hb) hs hroot (by omega)
      ((payloadBits ct bs).length + k)
    have hrest := ih (fun x hx => hct x (List.mem_cons_of_mem b hx)) hdec (by simp; omega)
    rw [List.append_assoc, List.singleton_append] at hrest
    rw [Completes, hpay, List.length_append, Nat.add_assoc, hu]
    exact hrest

end Sys2Proof.Machine
end

section
/-! DECOMPRESS of a container (48_decode_traversal.md R156) and the round trip (49_verifier_boundary.md R172). -/
namespace Sys2Proof.Machine

/-- What steps 1 to 3 of DECOMPRESS leave for the decode: the header's size and table, the payload next to be read. -/
structure Opened (rank : List PqEntry) (ft : Vector FtEntry 256) (z : Word) (payload : List Byte) (s : State) :
    Prop where
  ft : s.ft = ft
  size : s.hdr.size = z
  hdrValid : s.hdr.valid = true
  payload : payload <+: unread s
  rank : s.env.tieRank = rank
  noFaults : s.env.ioFaults = []
  wf : s.sink.mem.wf

theorem Opened.setSeqStep {rank : List PqEntry} {ft : Vector FtEntry 256} {z : Word} {payload : List Byte} {s : State}
    (h : Opened rank ft z payload s) (n : BitVec 4) : Opened rank ft z payload (s.setSeqStep n) :=
  ⟨h.ft, h.size, h.hdrValid, h.payload, h.rank, h.noFaults, h.wf⟩

/-! ### The header -/

theorem prefix_unread_of_src {s t : State} {bs : List Byte} (h : bs <+: unread s) (hsrc : s.src = t.src) :
    bs <+: unread t := unread_congr hsrc ▸ h

theorem opened_cfReadHeader {s : State} {ft : Vector FtEntry 256} {z : Word} {pad : Byte} {payload : List Byte}
    (hio : s.env.ioFaults = []) (hwf : s.sink.mem.wf) (hft : FtCanonical ft) (hn : ftN ft ≤ 255)
    (h : unread s = headerOf z (BitVec.ofNat 8 (ftN ft)) pad (entriesOf ft) ++ payload) :
    Completes cfReadHeader s fun _ t => Opened s.env.tieRank ft z payload t := by
  have hnum : (entriesOf ft).length = (BitVec.ofNat 8 (ftN ft)).toNat := by
    rw [length_entriesOf, BitVec.toNat_ofNat, Nat.mod_eq_of_lt (by omega)]
  have hread : CanRead s (headerOf z (BitVec.ofNat 8 (ftN ft)) pad (entriesOf ft)) :=
    ⟨noneFails_of_nil hio _, payload, h.symm⟩
  obtain ⟨-, -, hpayload⟩ := needBytes_of_canRead (s := s)
    (bs := headerOf z (BitVec.ofNat 8 (ftN ft)) pad (entriesOf ft)) (cs := payload)
    ⟨noneFails_of_nil hio _, h ▸ List.prefix_refl _⟩
  rw [length_headerOf] at hpayload
  exact completes_of_ok (cfReadHeader_of_canRead hnum hread)
    ⟨tableOf_entriesOf hft, rfl, rfl, prefix_unread_of_src hpayload rfl, rfl, hio, hwf⟩

theorem checkHeader_of_ok {s : State} (hz : s.hdr.size ≠ 0#64) (hn : ftN s.ft ≠ 0) : checkHeader s = .ok () s :=
  if_neg (not_or.2 ⟨hz, hn⟩)

/-- TB_BUILD leaves the header, the payload, the parameters and OUT (42_tree_builder.md R95). -/
theorem Built.opened {rank : List PqEntry} {ft : Vector FtEntry 256} {z : Word} {payload : List Byte} {T : Shape}
    {s t : State} (ht : Built s T t) (h : Opened rank ft z payload s) : Opened rank ft z payload t := by
  obtain ⟨hframe, -⟩ := ht
  rw [hframe]
  exact ⟨h.ft, h.size, h.hdrValid, h.payload, h.rank, h.noFaults, h.wf⟩

/-! ### The decode -/

/-- The decode begins at ROOT with no symbol out. -/
theorem decoding_nil {rank : List PqEntry} {ft : Vector FtEntry 256} {z : Word} {payload : List Byte} {s : State}
    (h : Opened rank ft z payload s) :
    Decoding s.tree z s.tree.root (bytesBits (unread s)) []
      (((s.setSink { s.sink with len := 0#64, pos := 0#64 }).setBr BitReader.init).setDec
        { cur := s.tree.root, count := 0#64, valid := true }) :=
  ⟨rfl, h.size, rfl, (by decide : 0#4 ≤ 8#4), rfl, rfl, outBytes_of_len_zero rfl, h.noFaults, rfl, h.wf⟩

theorem decStreamInSequence_of_ok {s t : State} (h : decStream s = .ok () t) : decStreamInSequence s = .ok () t := by
  rw [decStreamInSequence, h]

theorem length_readerBits (r : BitReader) : (readerBits r).length = r.left.toNat := by simp [readerBits]

/-- DEC_STREAM from the start of a payload that spells the input (48_decode_traversal.md R159). -/
theorem decStream_payload {s : State} {z : Word} {T : Shape} {ct : Vector Code 256} {input : List Byte}
    {rest : List Bool} {t : Tree} (hs : Decoding t z t.root (payloadBits ct input ++ rest) [] s)
    (hvalid : s.hdr.valid = true) (hroot : Shows t T t.root) (hT : T.Fits)
    (hct : ∀ x ∈ input, T.At (codeBits (ctAt ct x)) (some x)) (hz : z.toNat = input.length) :
    Completes decStream s fun _ u => outBytes u = input := by
  have hneed : hasDecoderAndHeader s = true := by
    rw [hasDecoderAndHeader, hs.dec, hvalid]
    rfl
  have hbits := congrArg List.length hs.bits
  rw [List.length_append, length_readerBits, length_bytesBits, length_unread, List.length_append] at hbits
  have hleft : bitsLeft s = (payloadBits ct input).length + rest.length := hbits
  refine completes_bind_of_ok (need_of_set hneed) (completes_bind_of_ok (Cmd.run_getState s) ?_)
  rw [hleft]
  exact decodeLoop_payload hroot hT hct hs (by rw [hz, List.length_nil, Nat.zero_add]) rest.length

/-- The decode of a payload from the tree that was built (48_decode_traversal.md R156, steps 4 to 7). -/
theorem decodeOpened {rank : List PqEntry} {ft : Vector FtEntry 256} {z : Word} {payload input : List Byte} {T : Shape}
    {k : Nat} {s : State} (h : Opened rank ft z payload s) (hvalid : s.tree.valid = true)
    (hroot : Shows s.tree T s.tree.root) (hT : T.Fits) (hspelled : ∀ x ∈ input, some x ∈ T.leaves)
    (hpayload : bytesBits payload = payloadBits T.codes input ++ List.replicate k false)
    (hz : z.toNat = input.length) :
    Completes (do
      seqStep 4#4
      sinkOpen
      brInit
      decInit
      decStreamInSequence
      seqStep 0#4) s fun _ v => outBytes v = input := by
  have hdec := decoding_nil (h.setSeqStep 4#4)
  obtain ⟨more, hmore⟩ := (h.setSeqStep 4#4).payload
  rw [← hmore, bytesBits_append, hpayload, List.append_assoc] at hdec
  obtain ⟨_, v, hrun, hv⟩ := decStream_payload hdec h.hdrValid hroot hT
    (fun x hx => (hT.codes_of_mem (hspelled x hx)).2) hz
  have hinit := decInit_of_tree
    (s := ((s.setSeqStep 4#4).setSink { s.sink with len := 0#64, pos := 0#64 }).setBr BitReader.init) hvalid
  exact completes_bind_of_ok (seqStep_eq _ s) (completes_bind_of_ok (sinkOpen_eq _)
    (completes_bind_of_ok (brInit_eq _) (completes_bind_of_ok hinit
    (completes_bind_of_ok (decStreamInSequence_of_ok hrun) (completes_of_ok (seqStep_eq _ v) hv)))))

/-- DECOMPRESS of a container of the input gives the input (49_verifier_boundary.md R172). -/
theorem decompress_contains {u : State} {input : List Byte} {ft : Vector FtEntry 256} {T : Shape}
    (hio : u.env.ioFaults = []) (hwf : u.sink.mem.wf) (hne : input ≠ []) (hlack : ∃ x, x ∉ input)
    (hlen : input.length < 2 ^ 64) (h : Contains u.env.tieRank input ft T (inBytes u)) :
    Completes decompress u fun _ v => outBytes v = input := by
  obtain ⟨hcounts, hT, hspelled, hbuilt, pad, payload, k, hpayload, hbytes⟩ := h
  have hz : (BitVec.ofNat 64 input.length).toNat = input.length := Nat.mod_eq_of_lt hlen
  have hz0 : BitVec.ofNat 64 input.length ≠ 0#64 := fun he =>
    hne (List.length_eq_zero_iff.1 (hz.symm.trans (congrArg BitVec.toNat he)))
  have hn0 : ftN ft ≠ 0 := mt List.length_eq_zero_iff.1 (hcounts.presentSyms_ne_nil hne)
  have hheader := opened_cfReadHeader
    (s := (u.setSeqStep 1#4).setSrc { (u.setSeqStep 1#4).src with pos := 0#64 }) hio hwf hcounts.canonical
    (hcounts.ftN_le hlack) ((unread_at_start rfl).trans hbytes)
  refine completes_bind_of_ok (seqStep_eq _ u) (completes_bind_of_ok (srcOpen_eq _)
    (completes_bind hheader fun _ s hs => ?_))
  have hcheck : checkHeader (s.setSeqStep 2#4) = .ok () (s.setSeqStep 2#4) :=
    checkHeader_of_ok (fun he => hz0 (hs.size.symm.trans he)) (fun he => hn0 (hs.ft ▸ he))
  have hs := (hs.setSeqStep 2#4).setSeqStep 3#4
  refine completes_bind_of_ok (seqStep_eq _ s) (completes_bind_of_ok hcheck (completes_bind_of_ok (seqStep_eq _ _)
    (completes_bind (hbuilt _ hs.ft hs.rank) fun _ t ht => ?_)))
  have hopened := ht.opened hs
  obtain ⟨-, hvalid, hroot⟩ := ht
  exact decodeOpened hopened hvalid hroot hT hspelled hpayload hz

/-! ### The round trip -/

/-- A composite command that completes answers a next state with STATUS Ok (10_state.md R13). -/
theorem issueComposite_of_completes {c : Cmd Unit} {s : State} {Q : State → Prop}
    (h : Completes c s fun _ t => Q t) : ∃ t, issueComposite c s = .next (t.setStatus statusOk) ∧ Q t := by
  obtain ⟨_, t, ht, hQ⟩ := h
  exact ⟨t, by rw [issueComposite, ht, finish_ok], hQ⟩

/-- Settles O51: COMPRESS leaves a container of the input, DECOMPRESS reads the input back from any container of it. -/
theorem roundTrip : Obligations.RoundTrip := by
  intro s u hsio huio hrank hswf huwf hne hlack hlt
  obtain ⟨t, ht, ft, T, hcontains⟩ := issueComposite_of_completes (compress_contains hsio hswf hne hlack hlt)
  refine ⟨_, ht, rfl, fun hin => ?_⟩
  have hlen := length_le_of_count_lt hlt
  rw [hrank, ← outBytes_setStatus t statusOk, ← hin] at hcontains
  obtain ⟨v, hv, hout⟩ := issueComposite_of_completes
    (decompress_contains huio huwf hne hlack (by omega) hcontains)
  have hout := (outBytes_setStatus v statusOk).trans hout
  exact ⟨_, hv, rfl, hout, verify_eq_ok.2 hout.symm⟩

end Sys2Proof.Machine
end

section
/-! Program lines and command words (30_encoding.md R68 to R73): the decoder and the encoder undo each other, for opcodes and
for lines of every format. -/
namespace Sys2Proof

/-- Every command's opcode decodes to it, and its format says which slices it reads (30_encoding.md R68, R69, R70). -/
theorem encoding_statement (i : Instr) : Laws.Encoding.Statement i :=
  match i with
  | .ftClear => Laws.Encoding.ftClear
  | .ftSet => Laws.Encoding.ftSet
  | .freqScan => Laws.Encoding.freqScan
  | .srcOpen => Laws.Encoding.srcOpen
  | .sinkOpen => Laws.Encoding.sinkOpen
  | .pqInit => Laws.Encoding.pqInit
  | .pqInsert => Laws.Encoding.pqInsert
  | .pqExtractMin => Laws.Encoding.pqExtractMin
  | .pqPeek => Laws.Encoding.pqPeek
  | .pqSize => Laws.Encoding.pqSize
  | .pqIsEmpty => Laws.Encoding.pqIsEmpty
  | .tbBuild => Laws.Encoding.tbBuild
  | .cgGenerate => Laws.Encoding.cgGenerate
  | .cgVerify => Laws.Encoding.cgVerify
  | .bwInit => Laws.Encoding.bwInit
  | .bwWriteBit => Laws.Encoding.bwWriteBit
  | .bwWriteBits => Laws.Encoding.bwWriteBits
  | .bwClose => Laws.Encoding.bwClose
  | .brInit => Laws.Encoding.brInit
  | .brReadBit => Laws.Encoding.brReadBit
  | .cfWriteHeader => Laws.Encoding.cfWriteHeader
  | .cfReadHeader => Laws.Encoding.cfReadHeader
  | .compress => Laws.Encoding.compress
  | .encodeStream => Laws.Encoding.encodeStream
  | .patchPadding => Laws.Encoding.patchPadding
  | .decompress => Laws.Encoding.decompress
  | .decInit => Laws.Encoding.decInit
  | .decStep => Laws.Encoding.decStep
  | .decStream => Laws.Encoding.decStream

theorem decode_encode (i : Instr) : decode (encode i) = .ok i := (encoding_statement i).1

theorem widthA_le (i : Instr) : i.widthA ≤ 256 := (encoding_statement i).2.2.1

theorem widthB_le (i : Instr) : i.widthB ≤ 64 := (encoding_statement i).2.2.2.1

theorem format_eq_n_iff (i : Instr) : i.format = .n ↔ i.widthA = 0 := (encoding_statement i).2.2.2.2.1

theorem format_eq_ab_iff (i : Instr) : i.format = .ab ↔ 0 < i.widthB := (encoding_statement i).2.2.2.2.2

/-- A command of format N reads neither register. -/
theorem widths_of_n {i : Instr} (h : i.format = .n) : i.widthA = 0 ∧ i.widthB = 0 := by
  refine ⟨(format_eq_n_iff i).1 h, Nat.eq_zero_of_not_pos fun hb => ?_⟩
  rw [← format_eq_ab_iff, h] at hb
  cases hb

/-- The opcode map has one opcode for each command (30_encoding.md R70). -/
theorem encode_of_decode {op : Byte} {i : Instr} (h : decode op = .ok i) : encode i = op := by
  unfold decode at h
  split at h <;> cases h
  all_goals exact BitVec.eq_of_toNat_eq (Eq.symm (by assumption))

theorem Line.fit_of_n {l : Line} (h : l.instr.format = .n) : l.fit = { instr := l.instr } := by
  obtain ⟨ha, hb⟩ := widths_of_n h
  simp [Line.fit, ha, hb, Nat.mod_one]

theorem Line.fit_a_lt (l : Line) : l.fit.a < 2 ^ 256 :=
  l.fit_wellFormed.1.trans_le (Nat.pow_le_pow_right (by decide) (widthA_le l.instr))

theorem Line.fit_b_lt (l : Line) : l.fit.b < 2 ^ 64 :=
  l.fit_wellFormed.2.trans_le (Nat.pow_le_pow_right (by decide) (widthB_le l.instr))

theorem decodeLine_opcode {op : Byte} {i : Instr} (h : decode op = .ok i) (hf : i.format = .n) :
    decodeLine (.opcode op) = .ok { instr := i } := by
  rw [decodeLine, h]
  exact if_pos hf

theorem decodeLine_triple {op : Byte} {i : Instr} (a : Pattern) (b : Word) (h : decode op = .ok i)
    (hf : i.format ≠ .n) : decodeLine (.triple op a b) = .ok (sliceLine i a b) := by
  rw [decodeLine, h]
  exact if_neg hf

/-- Decoding gives the line cut to its slices (30_encoding.md R73). -/
theorem decodeLine_encodeLine (l : Line) : decodeLine (encodeLine l) = .ok l.fit := by
  by_cases h : l.instr.format = .n
  · rw [encodeLine_of_n h, decodeLine_opcode (decode_encode _) h, Line.fit_of_n h]
  · rw [encodeLine_of_operands h, decodeLine_triple _ _ (decode_encode _) h, sliceLine, BitVec.toNat_ofNat,
      BitVec.toNat_ofNat, Nat.mod_eq_of_lt l.fit_a_lt, Nat.mod_eq_of_lt l.fit_b_lt]
    exact congrArg _ l.fit_fit

/-- The bits of a value cut to a slice of k bits. -/
theorem getLsbD_ofNat_slice {w k : Nat} (hk : k ≤ w) (x i : Nat) :
    (BitVec.ofNat w (x % 2 ^ k)).getLsbD i = (x.testBit i && decide (i < k)) := by
  rw [BitVec.getLsbD_ofNat, Nat.testBit_mod_two_pow]
  by_cases hi : i < k
  · simp [hi, hi.trans_le hk]
  · simp [hi]

/-- In a triple the named slices hold the operands' bits and every other bit is 0 (30_encoding.md R73). -/
theorem encodeLine_slices {l : Line} (h : l.instr.format ≠ .n) :
    ∃ a b, encodeLine l = .triple (encode l.instr) a b ∧
      (∀ i, a.getLsbD i = (l.a.testBit i && decide (i < l.instr.widthA))) ∧
      (∀ i, b.getLsbD i = (l.b.testBit i && decide (i < l.instr.widthB))) :=
  ⟨_, _, encodeLine_of_operands h, getLsbD_ofNat_slice (widthA_le _) l.a, getLsbD_ofNat_slice (widthB_le _) l.b⟩

/-- An opcode alone that decodes is that of a command of format N. -/
theorem of_decodeLine_opcode {op : Byte} {l : Line} (h : decodeLine (.opcode op) = .ok l) :
    decode op = .ok l.instr ∧ l.instr.format = .n ∧ l = { instr := l.instr } := by
  rw [decodeLine] at h
  split at h
  case h_1 i hi =>
    split at h
    case isTrue hf =>
      cases h
      exact ⟨hi, hf, rfl⟩
    case isFalse => cases h
  case h_2 => cases h

/-- A triple that decodes is that of a command with operands, its line the slices it names. -/
theorem of_decodeLine_triple {op : Byte} {a : Pattern} {b : Word} {l : Line}
    (h : decodeLine (.triple op a b) = .ok l) :
    decode op = .ok l.instr ∧ l.instr.format ≠ .n ∧ l = sliceLine l.instr a b := by
  rw [decodeLine] at h
  split at h
  case h_1 i hi =>
    split at h
    case isTrue => cases h
    case isFalse hf =>
      cases h
      exact ⟨hi, hf, rfl⟩
  case h_2 => cases h

theorem wellFormed_of_no_operands (i : Instr) : Line.WellFormed { instr := i } :=
  ⟨Nat.two_pow_pos _, Nat.two_pow_pos _⟩

/-- Settles O1: the line cut to its slices is what its encoding decodes to; what decodes is the encoding of its line, but for
the bits outside the slices. -/
theorem decodeEncodeLine : Obligations.DecodeEncodeLine := by
  refine ⟨fun l => ⟨decodeLine_encodeLine l, ⟨encodeLine_of_n, fun h => ?_⟩, encodeLine_slices⟩, fun l hl => ?_,
    fun op l h => ?_, fun op a b l h => ?_⟩
  · by_contra hf
    rw [encodeLine_of_operands hf] at h
    cases h
  · rw [decodeLine_encodeLine, Line.fit_of_wellFormed hl]
  · obtain ⟨hop, hf, hl⟩ := of_decodeLine_opcode h
    exact ⟨hl ▸ wellFormed_of_no_operands _, by rw [encodeLine_of_n hf, encode_of_decode hop]⟩
  · obtain ⟨hop, hf, hl⟩ := of_decodeLine_triple h
    generalize l.instr = i at hop hf hl
    subst hl
    obtain ⟨a', b', henc, ha, hb⟩ := encodeLine_slices (l := { instr := i, a := a.toNat, b := b.toNat }) hf
    refine ⟨sliceLine_wellFormed i a b, a', b', ?_, ha, hb⟩
    rw [sliceLine, encodeLine_fit, henc, encode_of_decode hop]

/-- Settles O2: the ten words of the opcode map. -/
theorem decodeSpecWords : Obligations.DecodeSpecWords :=
  ⟨decode_encode .ftSet, decode_encode .sinkOpen, decode_encode .pqExtractMin, decode_encode .tbBuild,
    decode_encode .cgVerify, decode_encode .bwWriteBits, decode_encode .brReadBit, decode_encode .cfReadHeader,
    decode_encode .patchPadding, decode_encode .decStream⟩

end Sys2Proof
end

section
/-! What a step does with the host's next action (10_state.md R11, R29, 30_encoding.md R71, R73, 70_reset_and_hazards.md
R200, R201). -/
namespace Sys2Proof.Machine

/-! ### Command words -/

theorem step_writeCmd {s : State} {c : Byte} {rest : List HostAction} {i : Instr} (h : s.host = .writeCmd c :: rest)
    (hc : decode c = .ok i) : step s = exec i { s with cmd := c, host := rest } := by
  rw [step, takeHost, h]
  simp only [hc]

/-- A word that no command encodes to is refused by the decoder (30_encoding.md R71). -/
theorem exists_decode_error {c : Byte} (h : ∀ i, encode i ≠ c) : ∃ r, decode c = .error r := by
  cases hc : decode c with
  | ok i => exact absurd (encode_of_decode hc) (h i)
  | error r => exact ⟨r, rfl⟩

/-- Settles O3: what no command encodes to the decoder refuses, and the step takes the fault. -/
theorem illegalCommandWord : Obligations.IllegalCommandWord := by
  refine ⟨fun s c rest h hc => ?_, by decide⟩
  obtain ⟨r, hr⟩ := exists_decode_error hc
  rw [step, takeHost, h]
  simp only [hr]
  rfl

/-! ### Program lines -/

/-- A run of one step is the step. -/
theorem run_one {M : Host.Core} (s : M.State) : M.run 1 s = M.step s := by
  rw [Host.Core.run]
  cases M.step s <;> rfl

theorem run_one_of_step {s : State} {o : Host.Outcome State Fault Refusal} (h : step s = o) :
    Sys2Proof.core.run 1 s = o :=
  (run_one (M := Sys2Proof.core) s).trans h

theorem run_lineActions_of_n {s : State} {l : Line} {rest : List HostAction} (hf : l.instr.format = .n)
    (h : s.host = lineActions l ++ rest) :
    Sys2Proof.core.run (lineActions l).length s = exec l.instr { s with cmd := encode l.instr, host := rest } := by
  rw [lineActions_of_n hf] at h ⊢
  exact run_one_of_step (step_writeCmd h (decode_encode _))

theorem run_lineActions_of_operands {s : State} {l : Line} {rest : List HostAction} (hf : l.instr.format ≠ .n)
    (h : s.host = lineActions l ++ rest) :
    Sys2Proof.core.run (lineActions l).length s = exec l.instr
      { s with
        a := BitVec.ofNat 256 l.fit.a, b := BitVec.ofNat 64 l.fit.b, cmd := encode l.instr, host := rest } := by
  rw [lineActions_of_operands hf] at h ⊢
  exact (run_succ_of_next (step_writeA h)).trans ((run_succ_of_next (step_writeB rfl)).trans
    (run_one_of_step (step_writeCmd rfl (decode_encode _))))

/-- Settles O4: a command word by its decoding; a line by its one write or its three. -/
theorem stepRunsDecodedCommand : Obligations.StepRunsDecodedCommand := by
  refine ⟨fun s c i rest => step_writeCmd, fun s l rest h => ?_⟩
  by_cases hf : l.instr.format = .n
  · rw [run_lineActions_of_n hf h, if_pos hf, if_pos hf]
  · rw [run_lineActions_of_operands hf h, if_neg hf, if_neg hf]
    rfl

/-! ### The host's other actions -/

theorem step_writeInLen {s : State} {v : Word} {rest : List HostAction} (h : s.host = .writeInLen v :: rest) :
    step s = .next { s with src := { s.src with len := v }, host := rest } := by
  rw [step, takeHost, h]

theorem step_writeIn {s : State} {off : Word} {v : Byte} {rest : List HostAction}
    (h : s.host = .writeIn off v :: rest) :
    step s = .next { s with src := { s.src with mem := memWrite s.src.mem off.toNat v }, host := rest } := by
  rw [step, takeHost, h]

theorem step_reset {s : State} {rest : List HostAction} (h : s.host = .reset :: rest) :
    step s = .next (resetEvent { s with host := rest }) := by
  rw [step, takeHost, h]

theorem step_idle {s : State} (h : s.host = []) : step s = .next s := by
  rw [step, takeHost, h]

/-- Settles O5: one equation per write of the host; the byte of IN reads back and no other changes. -/
theorem hostWrites : Obligations.HostWrites := fun _ _ =>
  ⟨fun _ => step_writeA, fun _ => step_writeB, fun _ => step_writeInLen,
    fun off v h hm => ⟨_, memWrite_wf v hm off.isLt, step_writeIn h, memRead_memWrite off.toNat v hm⟩, step_idle⟩

/-! ### Reset -/

theorem ftAt_replicate (e : FtEntry) (x : Byte) : ftAt (Vector.replicate 256 e) x = e := by simp [ftAt]

theorem ctAt_replicate (c : Code) (x : Byte) : ctAt (Vector.replicate 256 c) x = c := by simp [ctAt]

theorem atReset_reset : AtReset State.reset := by
  refine ⟨rfl, rfl, rfl, rfl, rfl, rfl, rfl, ftAt_replicate _, rfl, rfl, rfl, rfl, rfl, ctAt_replicate _, ?_⟩
  repeat' constructor

/-- The reset event puts the values of State.reset in place of every register (70_reset_and_hazards.md R201). -/
theorem atReset_resetEvent (s : State) : AtReset (resetEvent s) := atReset_reset

/-- Settles O6: the values of State.reset, which the reset event puts in place. -/
theorem resetValues : Obligations.ResetValues :=
  ⟨atReset_reset, fun _ _ h =>
    ⟨_, step_reset h, atReset_resetEvent _, rfl, rfl, rfl, rfl, rfl⟩⟩

theorem memory_wf_nil : Memory.wf [] := ⟨List.Pairwise.nil, fun _ hc => absurd hc List.not_mem_nil⟩

theorem ftCanonical_reset : FtCanonical State.reset.ft := fun s _ => by
  rw [show ftAt State.reset.ft s = FtEntry.empty from ftAt_replicate _ s]
  rfl

/-- A new writer has no unwritten bit set (10_state.md R20). -/
theorem clean_init : BitWriter.init.Clean := fun _ _ => BitVec.getLsbD_zero

/-- Settles O53: at reset the memories and the queue are empty, no flag is set and every counter is 0. -/
theorem invReset : Obligations.InvReset where
  inWf := memory_wf_nil
  outWf := memory_wf_nil
  ftCanonical := ftCanonical_reset
  treeInv := nofun
  codesChecked := nofun
  decOnNode := nofun
  outCursor := ⟨BitVec.le_refl _, fun _ => rfl⟩
  writerClean := fun _ => clean_init
  brLeft := by decide
  queueSeqs := ⟨List.nodup_nil, fun _ he => absurd he List.not_mem_nil⟩
  statusLegal := by decide
  seqLegal := by decide

end Sys2Proof.Machine
end

section
/-! Commands that are refused before they do anything, and the order of the queue: NotReady, the operands out of range, the
empty table, the end of the stream (10_state.md R26, 60_exceptions.md R178, R179). -/
namespace Sys2Proof.Machine

/-! ### Queue -/

theorem not_pqBefore_self (env : Env) (x : PqEntry) : pqBefore env x x = false := by
  rw [Bool.eq_false_iff, Ne, pqBefore_iff_toNat]
  omega

theorem pqBefore_of_prio_lt {env : Env} {x y : PqEntry} (h : x.prio < y.prio) : pqBefore env x y = true :=
  pqBefore_iff_toNat.2 (.inl (BitVec.lt_def.1 h))

/-- With the default parameter every entry has one rank (92_eei_decisions.md D4). -/
theorem tieRankOf_of_nil {env : Env} (h : env.tieRank = []) (x : PqEntry) : tieRankOf env x = 0 := by
  rw [tieRankOf, h]
  rfl

theorem pqBefore_iff_of_default {env : Env} (h : env.tieRank = []) {x y : PqEntry} (hne : x.seq ≠ y.seq) :
    pqBefore env x y = true ↔ x.prio < y.prio ∨ x.prio = y.prio ∧ x.seq < y.seq := by
  rw [pqBefore_iff_toNat, tieRankOf_of_nil h, tieRankOf_of_nil h, BitVec.lt_def, ← BitVec.toNat_inj]
  omega

/-- Settles O15: the order compares four keys one after the other; the default ranks all entries alike. -/
theorem tieBreakOrder : Obligations.TieBreakOrder := fun env =>
  ⟨not_pqBefore_self env, fun _ _ _ => pqBefore_trans, fun _ _ => pqBefore_total, fun _ _ => pqBefore_of_prio_lt,
    fun h _ _ => pqBefore_iff_of_default h⟩

theorem sizeWord_toNat {n : Nat} (h : n < 2 ^ 64) : (sizeWord n).toNat = n := by
  rw [sizeWord, if_pos h, BitVec.toNat_ofNat, Nat.mod_eq_of_lt h]

theorem exec_pqSize (s : State) :
    exec .pqSize s = .next (ended (s.setR0 (sizeWord s.queue.entries.length)) statusOk) :=
  issue_of_ok (Cmd.run_update (fun t => t.setR0 (sizeWord t.queue.entries.length)) (s.setSeqStep 0#4))

theorem exec_pqIsEmpty (s : State) :
    exec .pqIsEmpty s =
      .next (ended (s.setR0 (if s.queue.entries.length = 0 then 1#64 else 0#64)) statusOk) :=
  issue_of_ok (Cmd.run_update (fun t => t.setR0 (if t.queue.entries.length = 0 then 1#64 else 0#64))
    (s.setSeqStep 0#4))

/-- Settles O13: the size as a word, and whether it is 0. -/
theorem pqSizeIsEmpty : Obligations.PqSizeIsEmpty := fun s => by
  refine ⟨⟨_, exec_pqSize s, sizeWord_toNat⟩, ?_⟩
  rw [exec_pqIsEmpty]
  simp only [List.length_eq_zero_iff]
  rfl

/-! ### Refusals -/

theorem tbBuild_of_empty {s : State} (h : presentSyms s.ft = []) :
    tbBuild s = .error (.raised .emptyAlphabet) s.dropTree := by
  have hz : ftN s.dropTree.ft = 0 := List.length_eq_zero_iff.2 h
  rw [tbBuild, Cmd.run_bind_ok (Cmd.run_update _ _), Cmd.run_bind_ok (Cmd.run_getState _), if_pos hz]
  rfl

/-- Settles O16: TB_BUILD clears the flags and then finds no symbol. -/
theorem tbBuildEmptyTable : Obligations.TbBuildEmptyTable := fun s h =>
  issue_of_raised (tbBuild_of_empty (s := s.setSeqStep 0#4) h)

/-- A command that starts with a needed flag and finds it clear. -/
theorem issue_need_of_clear {flag : State → Bool} {c : Unit → Cmd Unit} {s : State}
    (h : flag (s.setSeqStep 0#4) = false) : issue (need flag >>= c) s = .next (ended s ErrKind.notReady.code) :=
  issue_of_raised (Cmd.run_bind_error (need_of_clear h))

/-- Settles O26: the needed flag is the first thing each of these commands looks at. -/
theorem notReadyChangesNothing : Obligations.NotReadyChangesNothing := by
  refine fun s => ⟨fun h => ⟨issue_need_of_clear h, exec_decInit_of_no_tree h⟩,
    fun h => ⟨exec_cgVerify_of_no_codes h, issue_need_of_clear h⟩, fun h => ?_, fun h => ?_⟩
  · exact issue_of_raised (Cmd.run_bind_error (Cmd.run_bind_error
      (need_of_clear (flag := hasDecoder) (s := s.setSeqStep 0#4) h)))
  · exact issue_need_of_clear (Bool.and_eq_false_iff.2 h)

theorem bwWriteBits_of_gt {v : Pattern} {n : Nat} (h : 256 < n) (s : State) :
    bwWriteBits v n s = .error (.raised .badOperand) s := by
  rw [bwWriteBits, if_pos h]
  rfl

theorem exec_cfWriteHeader_of_raised {s : State} {e : ErrKind}
    (h : cfWriteHeader (opPadding s) s.b (s.setSeqStep 0#4) = .error (.raised e) (s.setSeqStep 0#4)) :
    exec .cfWriteHeader s = .next (ended s e.code) := issue_of_raised h

/-- Settles O29: the length, then the number of entries, then the padding operand. -/
theorem refusedOperands : Obligations.RefusedOperands := by
  refine fun s => ⟨fun h => issue_of_raised (bwWriteBits_of_gt h _), fun h => ?_, fun hn hp => ?_⟩
  · refine exec_cfWriteHeader_of_raised (e := .alphabetTooLarge) ?_
    rw [cfWriteHeader_eq, if_pos (by rw [State.setSeqStep_ft, h]; decide)]
  · rw [← opPadding_eq_extractLsb] at hp
    have hle : ¬ Config.maxSyms < ftN (s.setSeqStep 0#4).ft := Nat.not_lt.2 (Nat.le_of_lt_succ hn)
    refine exec_cfWriteHeader_of_raised (e := .badOperand) ?_
    rw [cfWriteHeader_eq, if_neg hle, if_pos hp]

/-! ### The end of the stream -/

theorem decReadBit_of_ioFailed {s t : State} {sp : Space} (h : readBit s = .error (.ioFailed sp) t) :
    decReadBit s = .error (.ioFailed sp) t := by
  rw [decReadBit, h]

/-- DEC_STEP with a traversal is the step itself (48_decode_traversal.md R157). -/
theorem decStep_of_decoder {s : State} (h : s.dec.valid = true) : decStep s = decStepBody s :=
  Cmd.run_bind_ok (need_of_set (flag := hasDecoder) h)

theorem exec_decStep_of_ok {s t : State} {o : Option Byte} (hd : s.dec.valid = true)
    (h : decStepBody (s.setSeqStep 0#4) = .ok o t) : exec .decStep s = finish (giveSymbol o t) :=
  congrArg finish (Cmd.run_bind_ok (f := giveSymbol) ((decStep_of_decoder (s := s.setSeqStep 0#4) hd).trans h))

theorem exec_decStep_of_error {s t : State} {e : Stop} (hd : s.dec.valid = true)
    (h : decStepBody (s.setSeqStep 0#4) = .error e t) : exec .decStep s = finish (.error e t) :=
  congrArg finish (Cmd.run_bind_error (f := giveSymbol) ((decStep_of_decoder (s := s.setSeqStep 0#4) hd).trans h))

theorem exec_decStep_of_finished {s : State} (h0 : s.br.left = 0#4) (hf : s.br.finished = true)
    (hd : s.dec.valid = true) : exec .decStep s = .next (ended s ErrKind.truncatedStream.code) :=
  exec_decStep_of_error hd (Cmd.run_bind_error (decReadBit_of_end
    (readBit_of_refill_error (s := s.setSeqStep 0#4) h0 (refill_of_finished hf))))

theorem exec_decStep_at_end {s : State} (h0 : s.br.left = 0#4) (hf : s.br.finished = false)
    (h : s.src.len ≤ s.src.pos) (hd : s.dec.valid = true) :
    exec .decStep s = .next (ended s.setFinished ErrKind.truncatedStream.code) :=
  exec_decStep_of_error hd (Cmd.run_bind_error (decReadBit_of_end
    (readBit_of_refill_error (s := s.setSeqStep 0#4) h0 (refill_at_end hf h))))

/-- Settles O33: ReadBit finds no bit, and the decoder renames its error. -/
theorem endOfStream : Obligations.EndOfStream := fun _ h0 =>
  ⟨fun hf => ⟨exec_brReadBit_of_finished h0 hf, exec_decStep_of_finished h0 hf⟩,
    fun hf h => ⟨exec_brReadBit_at_end h0 hf h, exec_decStep_at_end h0 hf h⟩⟩

end Sys2Proof.Machine
end

section
/-! Lists of accesses of which one may fail (20_memory.md R56): one list after another, and the first access that fails. -/
namespace Sys2Proof.Machine

/-! ### One list after another -/

theorem failsAt_congr {s t : State} (h : s.env = t.env) (asks : List Access) (k : Nat) :
    failsAt s asks k = failsAt t asks k := by
  rw [failsAt, failsAt, askedMore, askedMore, h]

theorem noneFails_congr {s t : State} (h : s.env = t.env) {asks : List Access} : NoneFails s asks ↔ NoneFails t asks :=
  forall_congr' fun k => by rw [failsAt_congr h]

theorem firstFails_congr {s t : State} (h : s.env = t.env) {asks : List Access} {k : Nat} :
    FirstFails s asks k ↔ FirstFails t asks k := by
  simp only [FirstFails, failsAt_congr h]

theorem failsAt_append_left {s : State} {as : List Access} {k : Nat} (bs : List Access) (h : k < as.length) :
    failsAt s (as ++ bs) k = failsAt s as k := by
  rw [failsAt, failsAt, List.getElem?_append_left h]

theorem failsAt_append_right {s t : State} {as : List Access} (h : t.env = askedMore s as.length) (bs : List Access)
    (k : Nat) : failsAt s (as ++ bs) (as.length + k) = failsAt t bs k := by
  have he : askedMore t k = askedMore s (as.length + k) := by
    rw [askedMore, h, askedMore, askedMore, Nat.add_assoc]
  rw [failsAt, failsAt, List.getElem?_append_right (Nat.le_add_right _ _), Nat.add_sub_cancel_left, he]

theorem NoneFails.append_left {s : State} {as bs : List Access} (h : NoneFails s (as ++ bs)) : NoneFails s as :=
  noneFails_of_lt fun k hk => by rw [← failsAt_append_left bs hk]; exact h k

theorem NoneFails.append_right {s t : State} {as bs : List Access} (h : NoneFails s (as ++ bs))
    (ht : t.env = askedMore s as.length) : NoneFails t bs :=
  fun k => by rw [← failsAt_append_right ht]; exact h _

/-- An access that fails in the first list is the first that fails of both. -/
theorem FirstFails.append_left {s : State} {as : List Access} {k : Nat} (h : FirstFails s as k) (bs : List Access) :
    FirstFails s (as ++ bs) k :=
  ⟨by rw [failsAt_append_left bs h.lt]; exact h.1,
    fun j hj => by rw [failsAt_append_left bs (hj.trans h.lt)]; exact h.2 j hj⟩

/-- The first access that fails is in the first list, or none of these fails and it is in the second. -/
theorem FirstFails.append_cases {s t : State} {as bs : List Access} {k : Nat} (h : FirstFails s (as ++ bs) k)
    (ht : t.env = askedMore s as.length) :
    FirstFails s as k ∨ NoneFails s as ∧ ∃ j, k = as.length + j ∧ FirstFails t bs j := by
  obtain hlt | hle := Nat.lt_or_ge k as.length
  · exact .inl ⟨by rw [← failsAt_append_left bs hlt]; exact h.1,
      fun j hj => by rw [← failsAt_append_left bs (hj.trans hlt)]; exact h.2 j hj⟩
  · obtain ⟨j, rfl⟩ := Nat.exists_eq_add_of_le hle
    refine .inr ⟨noneFails_of_lt fun i hi => ?_, j, rfl, ?_, fun i hi => ?_⟩
    · rw [← failsAt_append_left bs hi]
      exact h.2 i (hi.trans_le hle)
    · rw [← failsAt_append_right ht]
      exact h.1
    · rw [← failsAt_append_right ht]
      exact h.2 _ (Nat.add_lt_add_left hi _)

/-- Of any accesses either none fails or one is the first. -/
theorem noneFails_or_firstFails (s : State) (asks : List Access) :
    NoneFails s asks ∨ ∃ k, FirstFails s asks k := by
  by_cases h : ∃ k, failsAt s asks k = true
  · exact .inr ⟨Nat.find h, Nat.find_spec h, fun j hj => Bool.eq_false_iff.2 (Nat.find_min h hj)⟩
  · exact .inl fun k => Bool.eq_false_iff.2 fun hk => h ⟨k, hk⟩

/-- Where none fails no access is the first that does. -/
theorem NoneFails.not_firstFails {s : State} {asks : List Access} (h : NoneFails s asks) {k : Nat} :
    ¬ FirstFails s asks k := fun hk => Bool.false_ne_true ((h k).symm.trans hk.1)

/-! ### Runs of reads and of writes -/

theorem readAsks_append (pos : Word) (m n : Nat) :
    readAsks pos (m + n) = readAsks pos m ++ readAsks (pos + BitVec.ofNat 64 m) n := by
  induction m generalizing pos with
  | zero => simp [readAsks]
  | succ m ih =>
    rw [Nat.succ_add, readAsks_succ, readAsks_succ, ih, List.cons_append, BitVec.add_assoc, BitVec.ofNat_add_ofNat,
      Nat.add_comm 1]

theorem writeAsks_append (pos : Word) (m n : Nat) :
    writeAsks pos (m + n) = writeAsks pos m ++ writeAsks (pos + BitVec.ofNat 64 m) n := by
  induction m generalizing pos with
  | zero => simp [writeAsks]
  | succ m ih =>
    rw [Nat.succ_add, writeAsks_succ, writeAsks_succ, ih, List.cons_append, BitVec.add_assoc, BitVec.ofNat_add_ofNat,
      Nat.add_comm 1]

/-- An access of the environment was asked and failed (20_memory.md R56). -/
def State.failedAsk (s : State) : State := s.setEnv s.env.countAsk

end Sys2Proof.Machine
end

section
/-! Bytes appended to OUT (20_memory.md R48): the stream they leave, and SinkByte of each in turn up to the first write that
fails. -/
namespace Sys2Proof.Machine

/-! ### The stream -/

/-- The stream with one byte more at its end. -/
def Stream.put (x : Stream) (v : Byte) : Stream :=
  { mem := memWrite x.mem x.len.toNat v, pos := x.len + 1#64, len := x.len + 1#64 }

/-- The stream with these bytes more at its end. -/
def Stream.putAll (x : Stream) (bs : List Byte) : Stream := bs.foldl Stream.put x

@[simp] theorem Stream.putAll_nil (x : Stream) : x.putAll [] = x := rfl

@[simp] theorem Stream.putAll_cons (x : Stream) (b : Byte) (bs : List Byte) :
    x.putAll (b :: bs) = (x.put b).putAll bs := rfl

theorem Stream.putAll_append (x : Stream) (as bs : List Byte) : x.putAll (as ++ bs) = (x.putAll as).putAll bs :=
  List.foldl_append

/-- The stream's cursor is at its end and its offsets hold n bytes more. -/
structure Stream.Room (x : Stream) (n : Nat) : Prop where
  atEnd : x.pos = x.len
  fits : x.len.toNat + n < 2 ^ 64

theorem Stream.Room.le {x : Stream} {m n : Nat} (h : x.Room n) (hm : m ≤ n) : x.Room m :=
  ⟨h.atEnd, (Nat.add_le_add_left hm _).trans_lt h.fits⟩

theorem Stream.Room.len_put {x : Stream} {n : Nat} (h : x.Room (n + 1)) (v : Byte) :
    (x.put v).len.toNat = x.len.toNat + 1 := by
  have := h.fits
  rw [Stream.put, BitVec.toNat_add, BitVec.toNat_ofNat]
  omega

theorem Stream.Room.put {x : Stream} {n : Nat} (h : x.Room (n + 1)) (v : Byte) : (x.put v).Room n :=
  ⟨rfl, by rw [h.len_put]; have := h.fits; omega⟩

theorem Stream.Room.append_eq_put {x : Stream} {n : Nat} (h : x.Room (n + 1)) (e : Env) (v : Byte) :
    x.append e v = x.put v :=
  Stream.append_eq_of_at_end e v h.atEnd (by have := h.fits; omega)

theorem Stream.Room.putAll {x : Stream} {n : Nat} {bs : List Byte} (h : x.Room (bs.length + n)) :
    (x.putAll bs).Room n := by
  induction bs generalizing x with
  | nil => exact h.le (Nat.le_add_left n 0)
  | cons b bs ih => exact ih (Stream.Room.put (h.le (by rw [List.length_cons]; omega)) b)

theorem Stream.len_putAll (x : Stream) (bs : List Byte) : (x.putAll bs).len = x.len + BitVec.ofNat 64 bs.length := by
  induction bs generalizing x with
  | nil => exact (BitVec.add_zero x.len).symm
  | cons b bs ih =>
    rw [putAll_cons, ih, put, List.length_cons, BitVec.add_assoc, BitVec.ofNat_add_ofNat, Nat.add_comm 1]

theorem Stream.Room.len_putAll {x : Stream} {bs : List Byte} {n : Nat} (h : x.Room (bs.length + n)) :
    (x.putAll bs).len.toNat = x.len.toNat + bs.length := by
  have := h.fits
  rw [Stream.len_putAll, BitVec.toNat_add, BitVec.toNat_ofNat]
  omega

/-- The stream y is x with these bytes more at its end, and every other byte is as in x. -/
structure Appended (x : Stream) (bs : List Byte) (y : Stream) : Prop where
  atEnd : y.pos = y.len
  len : y.len.toNat = x.len.toNat + bs.length
  holds : Holds x.mem y.mem x.len.toNat bs

theorem Appended.wf {x y : Stream} {bs : List Byte} (h : Appended x bs y) : y.mem.wf := h.holds.1

/-- Above the new end every byte is as it was. -/
theorem Appended.above {x y : Stream} {bs : List Byte} (h : Appended x bs y) {a : Nat} (ha : y.len.toNat ≤ a) :
    memRead y.mem a = memRead x.mem a := by
  have := h.len
  rw [h.holds.2, if_pos (by omega), List.getElem?_eq_none (by omega), Option.getD_none]

theorem memBytes_of_holds {m m' : Memory} {off : Nat} {bs : List Byte} (h : Holds m m' off bs) :
    memBytes m' 0 (off + bs.length) = memBytes m 0 off ++ bs := by
  refine List.ext_getElem? fun i => ?_
  obtain hi | hi := Nat.lt_or_ge i off
  · rw [List.getElem?_append_left (by simpa using hi), getElem?_memBytes _ _ _ _ (by omega),
      getElem?_memBytes _ _ _ _ hi, Nat.zero_add, h.2, if_neg (by omega), Option.getD_none]
  · rw [List.getElem?_append_right (by simpa using hi), length_memBytes]
    obtain hlt | hge := Nat.lt_or_ge i (off + bs.length)
    · rw [getElem?_memBytes _ _ _ _ hlt, Nat.zero_add, h.2, if_pos hi, List.getElem?_eq_getElem (by omega),
        Option.getD_some]
    · rw [List.getElem?_eq_none (by simpa using hge), List.getElem?_eq_none (by omega)]

/-- The bytes the host reads: those that were there, then the new ones. -/
theorem Appended.outBytes {s t : State} {bs : List Byte} (h : Appended s.sink bs t.sink) :
    outBytes t = outBytes s ++ bs := by
  rw [Machine.outBytes, Machine.outBytes, h.len, memBytes_of_holds h.holds]

theorem holds_putAll {x : Stream} {bs : List Byte} (h : x.Room bs.length) (hwf : x.mem.wf) :
    Holds x.mem (x.putAll bs).mem x.len.toNat bs := by
  induction bs using List.reverseRecOn with
  | nil => exact Holds.nil hwf _
  | append_singleton bs b ih =>
    rw [List.length_append] at h
    have hlen := h.len_putAll
    have hfits := h.fits
    rw [List.length_singleton] at hfits
    have hb := (ih (h.le (by omega))).snoc b (by omega)
    rwa [← hlen, ← show (x.putAll (bs ++ [b])).mem = memWrite (x.putAll bs).mem (x.putAll bs).len.toNat b by
      rw [Stream.putAll_append]; rfl] at hb

theorem appended_putAll {x : Stream} {bs : List Byte} (h : x.Room bs.length) (hwf : x.mem.wf) :
    Appended x bs (x.putAll bs) :=
  ⟨(Stream.Room.putAll (n := 0) h).atEnd, Stream.Room.len_putAll (n := 0) h, holds_putAll h hwf⟩

/-! ### SinkByte of each byte -/

/-- The state after these bytes were written at the end of OUT. -/
def State.wrote (s : State) (bs : List Byte) : State :=
  { s with sink := s.sink.putAll bs, env := askedMore s bs.length }

@[simp] theorem State.wrote_nil (s : State) : s.wrote [] = s := rfl

theorem askedMore_askedMore {s t : State} {m : Nat} (h : t.env = askedMore s m) (n : Nat) :
    askedMore t n = askedMore s (m + n) := by
  rw [askedMore, h, askedMore, askedMore, Nat.add_assoc]

theorem State.wrote_append (s : State) (as bs : List Byte) : s.wrote (as ++ bs) = (s.wrote as).wrote bs := by
  have he := askedMore_askedMore (s := s) (t := s.wrote as) rfl bs.length
  rw [State.wrote, State.wrote, he, Stream.putAll_append, List.length_append]
  rfl

theorem State.wrote_cons (s : State) (b : Byte) (bs : List Byte) : s.wrote (b :: bs) = (s.wrote [b]).wrote bs :=
  s.wrote_append [b] bs

theorem sinkByte_of_room {s : State} {n : Nat} (v : Byte) (h : s.sink.Room (n + 1))
    (hio : ioFails s.env .out s.sink.pos = false) : sinkByte v s = .ok () (s.wrote [v]) := by
  rw [sinkByte_eq, if_neg (ne_true_of_eq_false hio), h.append_eq_put]
  rfl

theorem sinkBytes_of_noneFails {s : State} {bs : List Byte} (h : s.sink.Room bs.length)
    (hio : NoneFails s (writeAsks s.sink.pos bs.length)) : sinkBytes bs s = .ok () (s.wrote bs) := by
  induction bs generalizing s with
  | nil => rfl
  | cons b bs ih =>
    rw [List.length_cons, writeAsks_succ, noneFails_cons (t := s.wrote [b]) rfl] at hio
    have hpos : (s.wrote [b]).sink.pos = s.sink.pos + 1#64 := congrArg (· + 1#64) h.atEnd.symm
    rw [sinkBytes_cons, Cmd.run_bind_ok (sinkByte_of_room b h hio.1), ih (h.put b) (hpos ▸ hio.2),
      ← State.wrote_cons]

theorem sinkBytes_of_firstFails {s : State} {bs : List Byte} {k : Nat} (h : s.sink.Room bs.length)
    (hio : FirstFails s (writeAsks s.sink.pos bs.length) k) :
    sinkBytes bs s = .error (.ioFailed .out) (s.wrote (bs.take k)).failedAsk := by
  induction bs generalizing s k with
  | nil => exact absurd hio.lt (by simp)
  | cons b bs ih =>
    rw [List.length_cons, writeAsks_succ] at hio
    rw [sinkBytes_cons]
    cases k with
    | zero => exact Cmd.run_bind_error (sinkByte_of_ioFails b ((firstFails_zero s _ _).1 hio))
    | succ k =>
      rw [firstFails_succ (t := s.wrote [b]) rfl] at hio
      have hpos : (s.wrote [b]).sink.pos = s.sink.pos + 1#64 := congrArg (· + 1#64) h.atEnd.symm
      rw [Cmd.run_bind_ok (sinkByte_of_room b h hio.1), ih (h.put b) (hpos ▸ hio.2), ← State.wrote_cons,
        List.take_succ_cons]

end Sys2Proof.Machine
end

section
/-! Bytes read from IN (20_memory.md R47): SrcByte for each in turn, up to the first read that fails or the end of the
source. -/
namespace Sys2Proof.Machine

theorem unread_eq_nil_iff {s : State} : unread s = [] ↔ s.src.len ≤ s.src.pos := by
  rw [← List.length_eq_zero_iff, length_unread, bytesLeft, Nat.sub_eq_zero_iff_le, BitVec.le_def]

theorem unread_readPast_one {s : State} {b : Byte} {bs : List Byte} (h : unread s = b :: bs) :
    unread (s.readPast 1) = bs := (unread_eq_cons h).2.2

theorem unread_readPast {s : State} {k : Nat} (h : k ≤ (unread s).length) :
    unread (s.readPast k) = (unread s).drop k := by
  induction k generalizing s with
  | zero => rw [State.readPast_zero, List.drop_zero]
  | succ k ih =>
    obtain ⟨b, bs, hbs⟩ := List.exists_cons_of_length_pos (Nat.lt_of_lt_of_le (Nat.succ_pos k) h)
    have hnext := unread_readPast_one hbs
    rw [hbs, List.length_cons] at h
    rw [Nat.add_comm, ← State.readPast_readPast, ih (by rw [hnext]; omega), hnext, hbs, Nat.add_comm,
      List.drop_succ_cons]

theorem srcByte_of_unread_nil {s : State} (h : unread s = []) : srcByte s = .ok none s :=
  srcByte_at_end (unread_eq_nil_iff.1 h)

/-- The next byte, where its read does not fail. -/
theorem srcByte_of_unread {s : State} {b : Byte} {bs : List Byte} (h : unread s = b :: bs)
    (hio : ioFails s.env .inp s.src.pos = false) : srcByte s = .ok (some b) (s.readPast 1) := by
  obtain ⟨hlt, hread, -⟩ := unread_eq_cons h
  rw [srcByte_of_pos_lt_len hlt hio, hread]
  rfl

theorem srcByte_of_unread_ioFails {s : State} {b : Byte} {bs : List Byte} (h : unread s = b :: bs)
    (hio : ioFails s.env .inp s.src.pos = true) : srcByte s = .error (.ioFailed .inp) s.failedAsk :=
  srcByte_of_ioFails (unread_eq_cons h).1 hio

/-- The reads of n + 1 bytes do not fail: the first does not, nor those from the next offset. -/
theorem noneFails_readAsks_succ {s : State} {n : Nat} :
    NoneFails s (readAsks s.src.pos (n + 1)) ↔
      ioFails s.env .inp s.src.pos = false ∧ NoneFails (s.readPast 1) (readAsks (s.readPast 1).src.pos n) := by
  rw [readAsks_succ, noneFails_cons (t := s.readPast 1) rfl]
  rfl

theorem firstFails_readAsks_zero {s : State} {n : Nat} :
    FirstFails s (readAsks s.src.pos (n + 1)) 0 ↔ ioFails s.env .inp s.src.pos = true := by
  rw [readAsks_succ, firstFails_zero]

theorem firstFails_readAsks_succ {s : State} {n k : Nat} :
    FirstFails s (readAsks s.src.pos (n + 1)) (k + 1) ↔
      ioFails s.env .inp s.src.pos = false ∧ FirstFails (s.readPast 1) (readAsks (s.readPast 1).src.pos n) k := by
  rw [readAsks_succ, firstFails_succ (t := s.readPast 1) rfl]
  rfl

theorem NoneFails.readAsks_le {s : State} {pos : Word} {m n : Nat} (h : NoneFails s (readAsks pos n)) (hm : m ≤ n) :
    NoneFails s (readAsks pos m) := by
  obtain ⟨k, rfl⟩ := Nat.exists_eq_add_of_le hm
  rw [readAsks_append] at h
  exact h.append_left

/-- The reads before the first that fails. -/
theorem FirstFails.readAsks {s : State} {pos : Word} {n k : Nat} (h : FirstFails s (readAsks pos n) k) :
    NoneFails s (readAsks pos k) := by
  have hk : k ≤ n := by simpa using h.lt.le
  obtain ⟨j, rfl⟩ := Nat.exists_eq_add_of_le hk
  rw [readAsks_append] at h
  refine noneFails_of_lt fun i hi => ?_
  rw [length_readAsks] at hi
  rw [← failsAt_append_left _ (by simpa using hi)]
  exact h.2 i hi

/-- The reads are those of the next bytes, then others. -/
theorem noneFails_readPast {s : State} {m n : Nat} (h : NoneFails s (readAsks s.src.pos (m + n))) :
    NoneFails (s.readPast m) (readAsks (s.readPast m).src.pos n) := by
  rw [readAsks_append] at h
  exact h.append_right (by rw [length_readAsks]; rfl)

end Sys2Proof.Machine
end

section
/-! CF_WRITE_HEADER appends the header (46_container_format.md R131), up to the first write that fails. -/
namespace Sys2Proof.Machine

/-- A header that is not refused is the writes of its bytes (46_container_format.md R131). -/
theorem cfWriteHeader_eq_sinkBytes {s : State} {pad : Byte} (size : Word) (hn : ftN s.ft ≤ 255) (hp : pad ≤ 7#8) :
    cfWriteHeader pad size s =
      sinkBytes (headerOf size (BitVec.ofNat 8 (ftN s.ft)) pad (entriesOf s.ft)) s := by
  have hmax : ¬ Config.maxSyms < ftN s.ft := Nat.not_lt.2 hn
  rw [cfWriteHeader_eq, if_neg hmax, if_neg (BitVec.not_lt.2 hp), headerBytes_eq_headerOf]

/-- A command of the host that stops at a failed access. -/
theorem issue_of_error_io {c : Cmd Unit} {s t : State} {sp : Space}
    (h : c (s.setSeqStep 0#4) = .error (.ioFailed sp) t) :
    issue c s = .next (t.setStatus ErrKind.ioError.code) := issue_of_ioFailed h

/-- Settles O35: the command is the writes of the header's bytes, which go to the end of OUT one after the other. -/
theorem cfWriteHeaderAppends : Obligations.CfWriteHeaderAppends := by
  intro s hn hp hend hroom hwf
  rw [← opPadding_eq_extractLsb] at hp ⊢
  have hrun := cfWriteHeader_eq_sinkBytes (s := s.setSeqStep 0#4) s.b hn hp
  rw [State.setSeqStep_ft] at hrun
  have hlen : (headerOf s.b (BitVec.ofNat 8 (ftN s.ft)) (opPadding s) (entriesOf s.ft)).length = 12 + 5 * ftN s.ft := by
    rw [length_headerOf, length_entriesOf]
  generalize headerOf s.b (BitVec.ofNat 8 (ftN s.ft)) (opPadding s) (entriesOf s.ft) = bs at hrun hlen
  have hbs : (s.setSeqStep 0#4).sink.Room bs.length := ⟨hend, by rw [State.setSeqStep_sink]; omega⟩
  rw [← hlen]
  refine ⟨fun hio => ?_, fun k hio => ?_⟩
  · have happ := appended_putAll hbs hwf
    exact ⟨_, issue_of_ok (hrun.trans (sinkBytes_of_noneFails hbs hio)), happ.outBytes, happ.atEnd,
      by rw [Nat.add_assoc, ← hlen]; exact happ.len, happ.wf, fun _ => happ.above, rfl⟩
  · have hk : (bs.take k).length = k := List.length_take_of_le (by simpa using hio.lt.le)
    have happ := appended_putAll (bs := bs.take k) (hbs.le (List.length_take_le' k bs)) hwf
    refine ⟨_, issue_of_error_io (hrun.trans (sinkBytes_of_firstFails hbs hio)), happ.outBytes, happ.atEnd, ?_, happ.wf,
      fun _ => happ.above, ?_⟩
    · exact happ.len.trans (congrArg _ hk)
    · rw [State.wrote, hk]
      rfl

end Sys2Proof.Machine
end

section
/-! FREQ_SCAN (40_frequency_table.md R82, R83): the bytes counted one after the other, up to the end of the source, a read that
fails or a count that would overflow. -/
namespace Sys2Proof.Machine

theorem Counts.eq {ft : Vector FtEntry 256} {bs : List Byte} (h : Counts ft bs) (x : Byte) :
    ftAt ft x = { present := decide (0 < bs.count x), count := BitVec.ofNat 32 (bs.count x) } := by
  rw [h x]
  simp only [List.count_pos_iff]

/-- Bytes that are read and counted without overflow. -/
theorem scanLoop_append {s : State} {done as rest : List Byte} (n : Word) (k : Nat) (hft : Counts s.ft done)
    (hbs : unread s = as ++ rest) (hio : NoneFails s (readAsks s.src.pos as.length))
    (hlt : ∀ x, (done ++ as).count x < 2 ^ 32) :
    ∃ ft, scanLoop (as.length + k) n s =
        scanLoop k (n + BitVec.ofNat 64 as.length) ((s.readPast as.length).setFt ft) ∧ Counts ft (done ++ as) := by
  induction as generalizing s done n with
  | nil =>
    refine ⟨s.ft, ?_, by rwa [List.append_nil]⟩
    rw [List.length_nil, State.readPast_zero, BitVec.add_zero, Nat.zero_add]
    rfl
  | cons b as ih =>
    rw [List.length_cons, noneFails_readAsks_succ] at hio
    have hb := hlt b
    rw [List.count_append, List.count_cons_self] at hb
    rw [List.append_cons] at hlt ⊢
    obtain ⟨ft, hcount, hft⟩ := countByte_of_counts (s := s.readPast 1) (v := b) hft (by omega)
    obtain ⟨ft', hloop, hft'⟩ := ih (s := (s.readPast 1).setFt ft) (n + 1#64) hft (unread_readPast_one hbs) hio.2 hlt
    refine ⟨ft', ?_, hft'⟩
    have hlen : n + 1#64 + BitVec.ofNat 64 as.length = n + BitVec.ofNat 64 (as.length + 1) := by
      rw [BitVec.add_assoc, BitVec.ofNat_add, BitVec.add_comm 1#64]
    have hpass : scanLoop (as.length + k + 1) n s =
        (countByte b >>= fun _ => scanLoop (as.length + k) (n + 1#64)) (s.readPast 1) := by
      rw [scanLoop_succ, srcByte_of_unread hbs hio.1]
    rw [List.length_cons, Nat.add_right_comm, hpass, Cmd.run_bind_ok hcount, hloop, hlen,
      State.setFt_readPast, State.readPast_readPast, State.setFt_setFt, Nat.add_comm 1]

theorem freqScan_eq (s : State) : freqScan s = scanLoop (unread s).length 0#64 (s.dropTree.setFt ftEmpty) := by
  rw [length_unread]
  rfl

/-- FREQ_SCAN after it has counted the first bytes. -/
theorem freqScan_append {s : State} {as rest : List Byte} (hbs : unread s = as ++ rest)
    (hio : NoneFails s (readAsks s.src.pos as.length)) (hlt : ∀ x, as.count x < 2 ^ 32) :
    ∃ ft, freqScan s =
        scanLoop rest.length (BitVec.ofNat 64 as.length) ((s.dropTree.readPast as.length).setFt ft) ∧ Counts ft as := by
  obtain ⟨ft, hloop, hft⟩ := scanLoop_append (s := s.dropTree.setFt ftEmpty) 0#64 rest.length counts_ftEmpty hbs hio hlt
  refine ⟨ft, ?_, hft⟩
  rw [freqScan_eq, hbs, List.length_append, hloop, BitVec.zero_add]
  rfl

/-- Every byte is counted (40_frequency_table.md R82). -/
theorem freqScan_of_noneFails {s : State} (hio : NoneFails s (readAsks s.src.pos (unread s).length))
    (hlt : ∀ x, (unread s).count x < 2 ^ 32) :
    ∃ ft, freqScan s =
        .ok (BitVec.ofNat 64 (unread s).length) ((s.dropTree.readPast (unread s).length).setFt ft) ∧
      Counts ft (unread s) :=
  freqScan_append (rest := []) (List.append_nil _).symm hio hlt

/-- The bytes up to the first read that fails, and what is left of them. -/
theorem unread_split {s : State} {k : Nat} (h : k < (unread s).length) :
    ∃ b rest, unread s = (unread s).take k ++ b :: rest ∧ ((unread s).take k).length = k ∧
      unread (s.readPast k) = b :: rest := by
  have hdrop := unread_readPast h.le
  rw [List.drop_eq_getElem_cons h] at hdrop
  refine ⟨_, _, ?_, List.length_take_of_le h.le, hdrop⟩
  rw [← List.drop_eq_getElem_cons h, List.take_append_drop]

/-- The access that fails is asked once those before it are done. -/
theorem FirstFails.ioFails_readPast {s : State} {n k : Nat} (h : FirstFails s (Machine.readAsks s.src.pos n) k) :
    ioFails (s.readPast k).env .inp (s.readPast k).src.pos = true := by
  have hk : k < n := by simpa using h.lt
  have hf := h.1
  rw [failsAt, Machine.readAsks, List.getElem?_map, List.getElem?_range hk] at hf
  exact hf

/-- The read that fails ends the scan (40_frequency_table.md R82). -/
theorem freqScan_of_firstFails {s : State} {k : Nat} (hio : FirstFails s (readAsks s.src.pos (unread s).length) k)
    (hlt : ∀ x, ((unread s).take k).count x < 2 ^ 32) :
    ∃ ft, freqScan s = .error (.ioFailed .inp) ((s.dropTree.readPast k).setFt ft).failedAsk ∧
      Counts ft ((unread s).take k) := by
  obtain ⟨b, rest, hbs, hlen, hnext⟩ := unread_split (by simpa using hio.lt)
  obtain ⟨ft, hscan, hft⟩ := freqScan_append hbs (hlen.symm ▸ hio.readAsks) hlt
  refine ⟨ft, ?_, hft⟩
  rw [hlen] at hscan
  have hfail := srcByte_of_unread_ioFails (s := (s.dropTree.readPast k).setFt ft) hnext hio.ioFails_readPast
  rw [hscan, List.length_cons, scanLoop_succ, hfail]

/-- A count at 2^32 - 1 ends the scan (40_frequency_table.md R83). -/
theorem countByte_of_full {s : State} {done : List Byte} {v : Byte} (hft : Counts s.ft done)
    (hv : done.count v = 2 ^ 32 - 1) : countByte v s = .error (.raised .freqOverflow) s := by
  have hmax : BitVec.ofNat 32 (2 ^ 32 - 1) = BitVec.allOnes 32 := by decide
  rw [countByte_eq, hft v, hv, if_pos hmax]

theorem freqScan_of_overflow {s : State} {done : List Byte} (h : OverflowsAfter (unread s) done)
    (hio : NoneFails s (readAsks s.src.pos (done.length + 1))) :
    ∃ ft, freqScan s = .error (.raised .freqOverflow) ((s.dropTree.readPast (done.length + 1)).setFt ft) ∧
      Counts ft done := by
  obtain ⟨v, rest, hbs, hv, hlt⟩ := h
  obtain ⟨ft, hscan, hft⟩ := freqScan_append hbs (hio.readAsks_le (Nat.le_succ _)) hlt
  refine ⟨ft, ?_, hft⟩
  have hlen : done.length ≤ (unread s).length := by rw [hbs, List.length_append]; omega
  have hnext : unread (s.readPast done.length) = v :: rest := by
    rw [unread_readPast hlen, hbs, List.drop_left]
  have hread := srcByte_of_unread (s := (s.dropTree.readPast done.length).setFt ft) hnext
    (noneFails_readAsks_succ.1 (noneFails_readPast hio)).1
  rw [hscan, List.length_cons, scanLoop_succ, hread, State.setFt_readPast, State.readPast_readPast]
  exact Cmd.run_bind_error (countByte_of_full hft hv)

theorem unread_setSeqStep (s : State) (n : BitVec 4) : unread (s.setSeqStep n) = unread s := rfl

theorem exec_freqScan_of_ok {s t : State} {n : Word} (h : freqScan (s.setSeqStep 0#4) = .ok n t) :
    exec .freqScan s = .next ((t.setR0 n).setStatus statusOk) :=
  issue_of_ok (Cmd.run_bind_ok (f := fun n => update fun t => t.setR0 n) h)

theorem exec_freqScan_of_raised {s t : State} {e : ErrKind} (h : freqScan (s.setSeqStep 0#4) = .error (.raised e) t) :
    exec .freqScan s = .next (t.setStatus e.code) :=
  issue_of_raised (Cmd.run_bind_error (f := fun n => update fun t => t.setR0 n) h)

theorem exec_freqScan_of_ioFailed {s t : State} {sp : Space}
    (h : freqScan (s.setSeqStep 0#4) = .error (.ioFailed sp) t) :
    exec .freqScan s = .next (t.setStatus ErrKind.ioError.code) :=
  issue_of_error_io (Cmd.run_bind_error (f := fun n => update fun t => t.setR0 n) h)

/-- Settles O8: every byte counted, or those before the read that fails. -/
theorem freqScanCounts : Obligations.FreqScanCounts := by
  intro s
  rw [← length_unread]
  refine ⟨fun hio hlt => ?_, fun k hio hlt => ?_⟩
  · obtain ⟨ft, hscan, hft⟩ := freqScan_of_noneFails (s := s.setSeqStep 0#4) hio hlt
    rw [unread_setSeqStep] at hscan hft
    refine ⟨ft, (exec_freqScan_of_ok hscan).trans ?_, hft.eq⟩
    simp only [ended, statusOk, askedMore, State.setStatus, State.setSeqStep, State.setR0, State.setFt,
      State.readPast, State.setSrc, State.setEnv, State.dropTree, State.setTree, State.setCodes, State.setDec]
  · obtain ⟨ft, hscan, hft⟩ := freqScan_of_firstFails (s := s.setSeqStep 0#4) hio hlt
    refine ⟨ft, (exec_freqScan_of_ioFailed hscan).trans ?_, hft.eq⟩
    simp only [ended, ErrKind.code, askedMore, State.setStatus, State.setSeqStep, State.setFt, State.failedAsk,
      Env.countAsk, State.readPast, State.setSrc, State.setEnv, State.dropTree, State.setTree, State.setCodes,
      State.setDec, Nat.add_assoc]

/-- The first byte that takes a count past m is the last of the shortest prefix that holds a value m + 1 times. -/
theorem exists_first_count_succ {bs : List Byte} {m : Nat} (h : ∃ v, m + 1 ≤ bs.count v) :
    ∃ done v rest, bs = done ++ v :: rest ∧ done.count v = m ∧ ∀ x, done.count x < m + 1 := by
  induction bs using List.reverseRecOn with
  | nil => simp at h
  | append_singleton bs b ih =>
    by_cases hbs : ∃ v, m + 1 ≤ bs.count v
    · obtain ⟨done, v, rest, rfl, hv, hlt⟩ := ih hbs
      exact ⟨done, v, rest ++ [b], by simp, hv, hlt⟩
    · obtain ⟨v, hv⟩ := h
      have hlt : ∀ x, bs.count x < m + 1 := fun x => Nat.lt_of_not_le fun hx => hbs ⟨x, hx⟩
      have hvb := hlt v
      rw [List.count_append, List.count_singleton] at hv
      split at hv
      case isTrue he =>
        obtain rfl := eq_of_beq he
        exact ⟨bs, b, [], rfl, by omega, hlt⟩
      case isFalse => omega

theorem exists_overflowsAfter {bs : List Byte} (h : ∃ v, 2 ^ 32 ≤ bs.count v) : ∃ done, OverflowsAfter bs done := by
  have hpow : 2 ^ 32 = 2 ^ 32 - 1 + 1 := by decide
  rw [hpow] at h
  obtain ⟨done, v, rest, hbs, hv, hlt⟩ := exists_first_count_succ h
  rw [← hpow] at hlt
  exact ⟨done, v, rest, hbs, hv, hlt⟩

/-- Settles O9: the scan up to the byte whose count is full; such a byte is the last of a shortest prefix. -/
theorem freqScanOverflow : Obligations.FreqScanOverflow := by
  refine fun s => ⟨fun done h hio => ?_, exists_overflowsAfter⟩
  obtain ⟨ft, hscan, hft⟩ := freqScan_of_overflow (s := s.setSeqStep 0#4) (unread_setSeqStep s 0#4 ▸ h) hio
  refine ⟨ft, (exec_freqScan_of_raised hscan).trans ?_, hft.eq⟩
  simp only [ended, ErrKind.code, askedMore, State.setStatus, State.setSeqStep, State.setFt, State.readPast,
    State.setSrc, State.setEnv, State.dropTree, State.setTree, State.setCodes, State.setDec]

end Sys2Proof.Machine
end

section
/-! CF_READ_HEADER on every source (46_container_format.md R133 to R136): the fields and entries whose bytes are in before a read
fails or the source ends, a wrong magic, and the complete header. -/
namespace Sys2Proof.Machine

/-! ### A source cut short -/

/-- Need() stops here with e: the source is at its end, or the read of its next byte fails; v is the environment it leaves
(46_container_format.md R133, R136). -/
inductive StopsAt (s : State) : Stop → Env → Prop
  | atEnd (h : unread s = []) : StopsAt s (.raised .truncatedHeader) s.env
  | ioFails (h : unread s ≠ []) (hio : ioFails s.env .inp s.src.pos = true) :
      StopsAt s (.ioFailed .inp) s.env.countAsk

/-- These bytes can be read, and the read after them stops. -/
structure CutAfter (s : State) (bs : List Byte) (e : Stop) (v : Env) : Prop where
  canRead : CanRead s bs
  stops : StopsAt (s.readPast bs.length) e v

theorem StopsAt.needByte {s : State} {e : Stop} {v : Env} (h : StopsAt s e v) :
    needByte s = .error e (s.setEnv v) := by
  rw [needByte_eq]
  cases h with
  | atEnd h =>
    rw [srcByte_of_unread_nil h]
    rfl
  | ioFails h hio =>
    obtain ⟨b, bs, hbs⟩ := List.exists_cons_of_ne_nil h
    rw [srcByte_of_unread_ioFails hbs hio]
    rfl

theorem StopsAt.congr {s t : State} {e : Stop} {v : Env} (h : StopsAt s e v) (hsrc : s.src = t.src)
    (henv : s.env = t.env) : StopsAt t e v := by
  cases h with
  | atEnd h => exact henv ▸ .atEnd (unread_congr hsrc ▸ h)
  | ioFails h hio => exact henv ▸ .ioFails (unread_congr hsrc ▸ h) (hsrc ▸ henv ▸ hio)

theorem CanRead.congr {s t : State} {bs : List Byte} (h : CanRead s bs) (hsrc : s.src = t.src) (henv : s.env = t.env) :
    CanRead t bs :=
  ⟨(noneFails_congr henv).1 (hsrc ▸ h.noneFails), unread_congr hsrc ▸ h.next⟩

/-- A cut depends on IN and on the environment alone. -/
theorem CutAfter.congr {s t : State} {bs : List Byte} {e : Stop} {v : Env} (h : CutAfter s bs e v)
    (hsrc : s.src = t.src) (henv : s.env = t.env) : CutAfter t bs e v :=
  ⟨h.canRead.congr hsrc henv, h.stops.congr (by simp only [State.readPast, State.setEnv_src, State.setSrc_src, hsrc])
    (by simp only [State.readPast, State.setEnv_env, askedMore, henv])⟩

/-- Without bytes before the cut the next one stops the command. -/
theorem CutAfter.needByte_nil {s : State} {e : Stop} {v : Env} (h : CutAfter s [] e v) :
    needByte s = .error e (s.setEnv v) := by
  have hstops := h.stops
  rw [List.length_nil, State.readPast_zero] at hstops
  exact hstops.needByte

theorem CutAfter.needByte_cons {s : State} {b : Byte} {bs : List Byte} {e : Stop} {v : Env}
    (h : CutAfter s (b :: bs) e v) : needByte s = .ok b (s.readPast 1) ∧ CutAfter (s.readPast 1) bs e v := by
  obtain ⟨hb, hbs⟩ := needByte_of_canRead h.canRead
  refine ⟨hb, hbs, ?_⟩
  rw [State.readPast_readPast, Nat.add_comm]
  exact h.stops

theorem CutAfter.needBytes_append {s : State} {as bs : List Byte} {e : Stop} {v : Env} (h : CutAfter s (as ++ bs) e v) :
    needBytes as.length s = .ok as (s.readPast as.length) ∧ CutAfter (s.readPast as.length) bs e v := by
  obtain ⟨has, hbs⟩ := needBytes_of_canRead h.canRead
  refine ⟨has, hbs, ?_⟩
  rw [State.readPast_readPast, ← List.length_append]
  exact h.stops

/-- More bytes are needed than are there. -/
theorem CutAfter.needBytes_lt {s : State} {bs : List Byte} {e : Stop} {v : Env} {n : Nat} (h : CutAfter s bs e v)
    (hn : bs.length < n) : needBytes n s = .error e ((s.readPast bs.length).setEnv v) := by
  induction bs generalizing s n with
  | nil =>
    obtain ⟨n, rfl⟩ := Nat.exists_eq_succ_of_ne_zero (Nat.ne_of_gt hn)
    rw [needBytes_succ, Cmd.run_bind_error h.needByte_nil, List.length_nil, State.readPast_zero]
  | cons b bs ih =>
    obtain ⟨n, rfl⟩ := Nat.exists_eq_succ_of_ne_zero (Nat.ne_of_gt (Nat.zero_lt_of_lt hn))
    obtain ⟨hb, h⟩ := h.needByte_cons
    rw [needBytes_succ, Cmd.run_bind_ok hb, Cmd.run_bind_error (ih h (Nat.lt_of_succ_lt_succ hn)),
      State.readPast_readPast, List.length_cons, Nat.add_comm 1]

/-! ### Entries -/

theorem wholeEntries_of_short {bs : List Byte} (h : bs.length < 5) : wholeEntries bs = [] := by
  match bs with
  | [] | [_] | [_, _] | [_, _, _] | [_, _, _, _] => rfl
  | _ :: _ :: _ :: _ :: _ :: _ =>
    simp only [List.length_cons] at h
    omega

theorem length_wholeEntries (bs : List Byte) : (wholeEntries bs).length = bs.length / 5 := by
  match bs with
  | [] | [_] | [_, _] | [_, _, _] | [_, _, _, _] => simp [wholeEntries]
  | x :: f0 :: f1 :: f2 :: f3 :: rest =>
    rw [wholeEntries, List.length_cons, length_wholeEntries rest]
    simp only [List.length_cons]
    omega

theorem readEntry_of_cut_short {s : State} {bs : List Byte} {e : Stop} {v : Env} (i : Nat) (h : CutAfter s bs e v)
    (hn : bs.length < 5) : readEntry i s = .error e ((s.readPast bs.length).setEnv v) := by
  cases bs with
  | nil => exact Cmd.run_bind_error (h.needByte_nil.trans (by rw [List.length_nil, State.readPast_zero]))
  | cons b bs =>
    obtain ⟨hb, h⟩ := h.needByte_cons
    rw [readEntry, Cmd.run_bind_ok hb, Cmd.run_bind_error (h.needBytes_lt (Nat.lt_of_succ_lt_succ hn)),
      State.readPast_readPast, List.length_cons, Nat.add_comm 1]

/-- The state with entry i committed to HDR_ENT and FT (46_container_format.md R134). -/
def State.putEntry (s : State) (i : Nat) (e : HdrEntry) : State :=
  (s.setHdr { s.hdr with ent := hdrEntPut s.hdr.ent i e }).setFt (ftPutEntry s.ft e)

/-- The state with these entries committed from index i up. -/
def State.putEntries (s : State) (i : Nat) (es : List HdrEntry) : State :=
  (s.setHdr { s.hdr with ent := hdrEntPutAll s.hdr.ent i es }).setFt (es.foldl ftPutEntry s.ft)

theorem State.putEntries_nil (s : State) (i : Nat) : s.putEntries i [] = s := rfl

theorem State.putEntries_cons (s : State) (i : Nat) (e : HdrEntry) (es : List HdrEntry) :
    s.putEntries i (e :: es) = (s.putEntry i e).putEntries (i + 1) es := rfl

theorem State.putEntry_readPast (s : State) (i n : Nat) (e : HdrEntry) :
    (s.putEntry i e).readPast n = (s.readPast n).putEntry i e := rfl

theorem readEntry_of_cut {s : State} {x f0 f1 f2 f3 : Byte} {bs : List Byte} {e : Stop} {v : Env} (i : Nat)
    (h : CutAfter s (x :: f0 :: f1 :: f2 :: f3 :: bs) e v) :
    readEntry i s = .ok () ((s.readPast 5).putEntry i { sym := x, freq := f0 ++ f1 ++ f2 ++ f3 }) ∧
      CutAfter (s.readPast 5) bs e v := by
  obtain ⟨hx, h⟩ := h.needByte_cons
  obtain ⟨hf, h⟩ := h.needBytes_append (as := [f0, f1, f2, f3])
  rw [State.readPast_readPast] at hf h
  have hf : needBytes 4 (s.readPast 1) = .ok [f0, f1, f2, f3] (s.readPast 5) := hf
  refine ⟨?_, h⟩
  rw [readEntry, Cmd.run_bind_ok hx, Cmd.run_bind_ok hf, Cmd.run_update, be32Value_eq_append]
  rfl

/-- The whole entries before the cut are committed (46_container_format.md R134, R136). -/
theorem readEntries_of_cut {s : State} {bs : List Byte} {e : Stop} {v : Env} {n : Nat} (i : Nat)
    (h : CutAfter s bs e v) (hn : bs.length < 5 * n) :
    readEntries i n s = .error e (((s.readPast bs.length).putEntries i (wholeEntries bs)).setEnv v) := by
  induction n generalizing s bs i with
  | zero => exact absurd hn (Nat.not_lt_zero _)
  | succ n ih =>
    rw [readEntries_succ]
    match bs with
    | x :: f0 :: f1 :: f2 :: f3 :: bs =>
      obtain ⟨hx, h⟩ := readEntry_of_cut i h
      simp only [List.length_cons] at hn
      have hrest := ih (s := (s.readPast 5).putEntry i { sym := x, freq := f0 ++ f1 ++ f2 ++ f3 }) (i + 1)
        (h.congr rfl rfl) (by omega)
      have hlen : (x :: f0 :: f1 :: f2 :: f3 :: bs).length = 5 + bs.length := Nat.add_comm _ 5
      rw [Cmd.run_bind_ok hx, hrest, hlen, ← State.readPast_readPast, wholeEntries, State.putEntries_cons,
        State.putEntry_readPast]
    | [] | [_] | [_, _] | [_, _, _] | [_, _, _, _] =>
      rw [Cmd.run_bind_error (readEntry_of_cut_short i h (by simp)), wholeEntries_of_short (by simp),
        State.putEntries_nil]

/-! ### Fields -/

/-- The fields after the magic from a cut source, up to a number of entries that is not there. -/
def Header.cutFields (h : Header) (bs : List Byte) : Header :=
  { magic := h.magic
    size := if 8 ≤ bs.length then be64Value (bs.take 8) else h.size
    num := if 9 ≤ bs.length then bs.getD 8 0#8 else h.num
    pad := if 10 ≤ bs.length then bs.getD 9 0#8 else h.pad
    ent := hdrEntPutAll h.ent 0 (wholeEntries (bs.drop 10))
    valid := h.valid }

/-- The bytes after the magic end before the fields and the entries they announce are complete. -/
def FieldsCut (bs : List Byte) : Prop := bs.length < 10 ∨ ∃ n : Byte, bs[8]? = some n ∧ bs.length < 10 + 5 * n.toNat

theorem readFields_of_cut {s : State} {bs : List Byte} {e : Stop} {v : Env} (h : CutAfter s bs e v)
    (hcut : FieldsCut bs) :
    readFields s = .error e ((((s.readPast bs.length).setHdr (s.hdr.cutFields bs)).setFt
      ((wholeEntries (bs.drop 10)).foldl ftPutEntry s.ft)).setEnv v) := by
  obtain hlt | hge := Nat.lt_or_ge bs.length 8
  · have hent : wholeEntries (bs.drop 10) = [] := by rw [List.drop_of_length_le (by omega)]; rfl
    rw [readFields, Cmd.run_bind_error (h.needBytes_lt hlt), Header.cutFields, hent, if_neg (by omega),
      if_neg (by omega), if_neg (by omega)]
    rfl
  obtain ⟨z, bs, rfl, hz⟩ : ∃ z cs, bs = z ++ cs ∧ z.length = 8 :=
    ⟨bs.take 8, bs.drop 8, (List.take_append_drop 8 bs).symm, List.length_take_of_le hge⟩
  obtain ⟨hsize, h⟩ := h.needBytes_append
  rw [hz] at hsize h
  have hh := h.congr (t := (s.readPast 8).setHdr { s.hdr with size := be64Value z }) rfl rfl
  rw [readFields, Cmd.run_bind_ok hsize, Cmd.run_bind_ok (Cmd.run_update _ _)]
  have htake : (z ++ bs).take 8 = z := by rw [← hz, List.take_left]
  match bs with
  | [] =>
    rw [List.append_nil] at htake ⊢
    have hent : wholeEntries (z.drop 10) = [] := by rw [List.drop_of_length_le (by omega)]; rfl
    refine (Cmd.run_bind_error hh.needByte_nil).trans ?_
    rw [Header.cutFields, hent, hz, htake]
    rfl
  | [n] =>
    obtain ⟨hn, hh⟩ := hh.needByte_cons
    rw [State.setHdr_readPast, State.readPast_readPast] at hn hh
    have hlen : (z ++ [n]).length = 9 := by rw [List.length_append, hz]; rfl
    have hent : wholeEntries ((z ++ [n]).drop 10) = [] := by rw [List.drop_of_length_le (by omega)]; rfl
    have hget : (z ++ [n]).getD 8 0#8 = n := by rw [List.getD_append_right _ _ _ _ (by omega), hz]; rfl
    have hh := hh.congr (t := (s.readPast 9).setHdr { s.hdr with size := be64Value z, num := n }) rfl rfl
    refine (Cmd.run_bind_ok hn).trans ((Cmd.run_bind_ok (Cmd.run_update _ _)).trans ?_)
    rw [State.setHdr_setHdr]
    refine (Cmd.run_bind_error hh.needByte_nil).trans ?_
    rw [Header.cutFields, hent, hlen, htake, hget]
    rfl
  | n :: p :: bs =>
    obtain ⟨hn, hh⟩ := hh.needByte_cons
    rw [State.setHdr_readPast, State.readPast_readPast] at hn hh
    obtain ⟨hp, h10⟩ := CutAfter.needByte_cons
      (hh.congr (t := (s.readPast 9).setHdr { s.hdr with size := be64Value z, num := n }) rfl rfl)
    have hlen : (z ++ n :: p :: bs).length = 10 + bs.length := by
      rw [List.length_append, hz, List.length_cons, List.length_cons]
      omega
    have hdrop : (z ++ n :: p :: bs).drop 10 = bs := by
      rw [List.drop_append, hz, List.drop_of_length_le (by omega)]
      rfl
    have hget8 : (z ++ n :: p :: bs).getD 8 0#8 = n := by rw [List.getD_append_right _ _ _ _ (by omega), hz]; rfl
    have hget9 : (z ++ n :: p :: bs).getD 9 0#8 = p := by rw [List.getD_append_right _ _ _ _ (by omega), hz]; rfl
    have hshort : bs.length < 5 * n.toNat := by
      obtain hcut | ⟨m, hm, hcut⟩ := hcut
      · omega
      · rw [List.getElem?_append_right (by omega), hz] at hm
        obtain rfl : n = m := Option.some.inj hm
        omega
    have hents := readEntries_of_cut 0 (h10.congr
      (t := (s.readPast 10).setHdr { s.hdr with size := be64Value z, num := n, pad := p })
      (by simp) (by simp)) hshort
    refine (Cmd.run_bind_ok hn).trans ((Cmd.run_bind_ok (Cmd.run_update _ _)).trans ?_)
    rw [State.setHdr_setHdr]
    refine (Cmd.run_bind_ok hp).trans ((Cmd.run_bind_ok (Cmd.run_update _ _)).trans ?_)
    rw [State.setHdr_readPast, State.readPast_readPast, State.setHdr_setHdr]
    refine (Cmd.run_bind_error hents).trans ?_
    rw [Header.cutFields, hlen, htake, hdrop, hget8, hget9, if_pos (by omega), if_pos (by omega), if_pos (by omega),
      State.setHdr_readPast, State.readPast_readPast]
    rfl

/-! ### The whole header -/

/-- The header registers after these bytes of a header and no more (46_container_format.md R136). -/
def Header.cut (h : Header) (bs : List Byte) : Header :=
  { h.cutFields (bs.drop 2) with
    magic := if 2 ≤ bs.length then bs.getD 0 0#8 ++ bs.getD 1 0#8 else h.magic
    valid := false }

/-- The input is a header cut short: before the magic is complete, or after the right magic. -/
def HeaderCut (bs : List Byte) : Prop :=
  bs.length < 2 ∨ ∃ rest, bs = Config.magic0 :: Config.magic1 :: rest ∧ FieldsCut rest

/-- A cut header lacks at least one byte of its last entry. -/
theorem HeaderCut.length_wholeEntries_le {bs : List Byte} (h : HeaderCut bs) :
    (wholeEntries (bs.drop 12)).length ≤ 255 := by
  rw [length_wholeEntries, List.length_drop]
  obtain h | ⟨rest, rfl, h | ⟨n, -, h⟩⟩ := h
  · omega
  · simp only [List.length_cons]
    omega
  · have := n.isLt
    simp only [List.length_cons]
    omega

theorem headerAfter_cut {h : Header} {bs : List Byte} (hcut : HeaderCut bs) : HeaderAfter h bs (h.cut bs) := by
  have hents := getElem?_hdrEntPutAll h.ent (i := 0) (es := wholeEntries (bs.drop 12))
    (by rw [Nat.zero_add]; exact hcut.length_wholeEntries_le)
  have hdrop : (bs.drop 2).drop 10 = bs.drop 12 := by rw [List.drop_drop]
  have hget : ∀ i, (bs.drop 2).getD i 0#8 = bs.getD (2 + i) 0#8 := fun i => by simp [List.getD_eq_getElem?_getD]
  have hlen : ∀ n, n ≤ (bs.drop 2).length ↔ n = 0 ∨ n + 2 ≤ bs.length := fun n => by rw [List.length_drop]; omega
  refine ⟨rfl, ?_, ?_, ?_, fun i hi => ?_, fun i hi => ?_, rfl⟩
  · exact if_congr (by rw [hlen]; simp) rfl rfl
  · exact if_congr (by rw [hlen]; simp) (hget 8) rfl
  · exact if_congr (by rw [hlen]; simp) (hget 9) rfl
  · show (hdrEntPutAll h.ent 0 (wholeEntries ((bs.drop 2).drop 10)))[i]? = _
    rw [hdrop, hents, if_pos (by omega), Nat.sub_zero]
  · show (hdrEntPutAll h.ent 0 (wholeEntries ((bs.drop 2).drop 10)))[i]? = _
    rw [hdrop, hents, if_neg (by omega)]

/-- The state CF_READ_HEADER leaves when it stops after these bytes (46_container_format.md R136). -/
def State.headerCut (s : State) (bs : List Byte) (v : Env) : State :=
  (((s.dropTree.readPast bs.length).setHdr (s.hdr.cut bs)).setFt (tableOf (wholeEntries (bs.drop 12)))).setEnv v

theorem Header.cut_of_short {h : Header} {bs : List Byte} (hlt : bs.length < 2) :
    h.cut bs = { h with valid := false } := by
  have hnil : bs.drop 2 = [] := List.drop_of_length_le (by omega)
  rw [Header.cut, hnil, if_neg (by omega), Header.cutFields]
  rfl

theorem cfReadHeader_of_cut {s : State} {bs : List Byte} {e : Stop} {v : Env} (h : CutAfter s bs e v)
    (hcut : HeaderCut bs) : cfReadHeader s = .error e (s.headerCut bs v) := by
  have h : CutAfter (clearForHeader s) bs e v := h.congr rfl rfl
  rw [cfReadHeader, Cmd.run_bind_ok (Cmd.run_update _ _)]
  obtain hlt | ⟨rest, rfl, hcut⟩ := hcut
  · have hents : wholeEntries (bs.drop 12) = [] := by rw [List.drop_of_length_le (by omega)]; rfl
    rw [State.headerCut, Header.cut_of_short hlt, hents]
    match bs with
    | [] =>
      rw [Cmd.run_bind_error h.needByte_nil, List.length_nil, State.readPast_zero]
      rfl
    | [m0] =>
      obtain ⟨hm0, h⟩ := h.needByte_cons
      rw [Cmd.run_bind_ok hm0, Cmd.run_bind_error h.needByte_nil]
      rfl
    | _ :: _ :: _ =>
      simp only [List.length_cons] at hlt
      omega
  · obtain ⟨hm0, h⟩ := h.needByte_cons
    obtain ⟨hm1, h⟩ := h.needByte_cons
    rw [State.readPast_readPast] at hm1 h
    have hfields := readFields_of_cut (h.congr
      (t := ((clearForHeader s).readPast 2).setHdr
        { (clearForHeader s).hdr with magic := Config.magic0 ++ Config.magic1 }) rfl rfl) hcut
    have hlen : (Config.magic0 :: Config.magic1 :: rest).length = 2 + rest.length := Nat.add_comm _ 2
    rw [Cmd.run_bind_ok hm0, Cmd.run_bind_ok hm1, Cmd.run_bind_ok (Cmd.run_update _ _), if_neg (by decide)]
    refine hfields.trans ?_
    rw [State.headerCut, State.setHdr_readPast, State.readPast_readPast, hlen, Header.cut, if_pos (by omega)]
    rfl

/-! ### Where the reads of the header end -/

/-- The source whose reads end with the first that fails (46_container_format.md R136). -/
theorem cutAfter_of_firstFails {s : State} {n k : Nat} (h : FirstFails s (readAsks s.src.pos n) k)
    (hn : n ≤ (unread s).length) :
    ((unread s).take k).length = k ∧
      CutAfter s ((unread s).take k) (.ioFailed .inp) (s.readPast k).env.countAsk := by
  have hk : k < (unread s).length := Nat.lt_of_lt_of_le (by simpa using h.lt) hn
  obtain ⟨b, rest, -, hlen, hnext⟩ := unread_split hk
  refine ⟨hlen, ⟨hlen.symm ▸ h.readAsks, List.take_prefix k _⟩, ?_⟩
  rw [hlen]
  exact .ioFails (by rw [hnext]; exact List.cons_ne_nil _ _) h.ioFails_readPast

/-- The source whose bytes are all read (46_container_format.md R136). -/
theorem cutAfter_unread {s : State} (h : NoneFails s (readAsks s.src.pos (unread s).length)) :
    CutAfter s (unread s) (.raised .truncatedHeader) (s.readPast (unread s).length).env :=
  ⟨⟨h, List.prefix_refl _⟩, .atEnd (by rw [unread_readPast (Nat.le_refl _), List.drop_length])⟩

theorem headerReads_le (bs : List Byte) : headerReads bs ≤ bs.length := by
  rw [headerReads]
  split <;> exact Nat.min_le_left _ _

/-- Fewer bytes than CF_READ_HEADER reads are a header cut short. -/
theorem headerCut_take {bs : List Byte} {k : Nat} (h : k < headerReads bs) : HeaderCut (bs.take k) := by
  have hlen : (bs.take k).length = k := List.length_take_of_le (h.le.trans (headerReads_le bs))
  obtain hlt | hge := Nat.lt_or_ge k 2
  · exact .inl (by omega)
  rw [headerReads] at h
  split at h
  case isFalse => omega
  case isTrue hmagic =>
    obtain ⟨rest, rfl⟩ : ∃ rest, bs = Config.magic0 :: Config.magic1 :: rest :=
      ⟨bs.drop 2, (List.take_append_drop 2 bs).symm.trans (by rw [hmagic]; rfl)⟩
    obtain ⟨k, rfl⟩ : ∃ j, k = j + 2 := ⟨k - 2, by omega⟩
    simp only [List.length_cons, List.getD_cons_succ] at h
    refine .inr ⟨rest.take k, rfl, ?_⟩
    have hk : (rest.take k).length = k := List.length_take_of_le (by omega)
    by_cases h10 : k < 10
    · exact .inl (by omega)
    · refine .inr ⟨rest[8], ?_, ?_⟩
      · rw [List.getElem?_take, if_pos (by omega), List.getElem?_eq_getElem (by omega)]
      · have hget : rest.getD 8 0#8 = rest[8]'(by omega) := List.getD_eq_getElem _ _ _
        rw [hget] at h
        omega

/-- An input that ends inside the header is read to its end. -/
theorem headerReads_of_truncated {bs : List Byte} (h : HeaderTruncated bs) : headerReads bs = bs.length := by
  rw [headerReads]
  split
  case isTrue hmagic =>
    obtain h | ⟨rest, rfl, h⟩ := h
    · have hlen := congrArg List.length hmagic
      rw [List.length_take] at hlen
      simp at hlen
      omega
    · simp only [List.length_cons, List.getD_cons_succ]
      obtain h | ⟨n, hn, h⟩ := h
      · omega
      · rw [List.getD_eq_getElem?_getD, hn, Option.getD_some]
        omega
  case isFalse hmagic =>
    obtain h | ⟨rest, rfl, h⟩ := h
    · omega
    · exact absurd rfl hmagic

theorem HeaderTruncated.headerCut {bs : List Byte} (h : HeaderTruncated bs) : HeaderCut bs := h

/-- A wrong magic ends the command once both its bytes are in (46_container_format.md R136). -/
theorem cfReadHeader_of_bad_magic {s : State} {m0 m1 : Byte} (h : CanRead s [m0, m1])
    (hbad : m0 ≠ Config.magic0 ∨ m1 ≠ Config.magic1) :
    cfReadHeader s = .error (.raised .badMagic)
      (((s.dropTree.readPast 2).setHdr { s.hdr with magic := m0 ++ m1, valid := false }).setFt ftEmpty) := by
  have h : CanRead (clearForHeader s) [m0, m1] := h.congr rfl rfl
  obtain ⟨hm0, h⟩ := needByte_of_canRead h
  obtain ⟨hm1, -⟩ := needByte_of_canRead h
  rw [cfReadHeader, Cmd.run_bind_ok (Cmd.run_update _ _), Cmd.run_bind_ok hm0, Cmd.run_bind_ok hm1,
    Cmd.run_bind_ok (Cmd.run_update _ _), if_pos hbad, State.readPast_readPast]
  rfl

theorem headerReads_of_bad_magic {m0 m1 : Byte} {rest : List Byte} (h : m0 ≠ 0x48#8 ∨ m1 ≠ 0x46#8) :
    headerReads (m0 :: m1 :: rest) = 2 := by
  have hmagic : ¬ (m0 :: m1 :: rest).take 2 = [0x48#8, 0x46#8] := fun he => by
    rw [List.take_succ_cons, List.take_succ_cons, List.take_zero, List.cons.injEq, List.cons.injEq] at he
    exact h.elim (absurd he.1) (absurd he.2.1)
  rw [headerReads, if_neg hmagic, List.length_cons, List.length_cons]
  omega

/-! ### The command -/

theorem exec_cfReadHeader_of_ioFailed {s t : State} {sp : Space}
    (h : cfReadHeader (s.setSeqStep 0#4) = .error (.ioFailed sp) t) :
    exec .cfReadHeader s = .next (t.setStatus ErrKind.ioError.code) := issue_of_ioFailed h

theorem exec_cfReadHeader_of_raised {s t : State} {e : ErrKind}
    (h : cfReadHeader (s.setSeqStep 0#4) = .error (.raised e) t) :
    exec .cfReadHeader s = .next (t.setStatus e.code) := issue_of_raised h

/-- Settles O36: a complete header is read field by field; the first read that fails cuts any other source short. -/
theorem cfReadHeaderReads : Obligations.CfReadHeaderReads := by
  refine ⟨fun s z n p ents rest hio hn hbs => ?_, fun s k hio => ?_⟩
  · have hread : CanRead s (headerOf z n p ents) :=
      ⟨by rw [length_headerOf]; exact hio, rest, hbs.symm⟩
    have hents := getElem?_hdrEntPutAll s.hdr.ent (i := 0) (es := ents) (by have := n.isLt; omega)
    refine ⟨hdrEntPutAll s.hdr.ent 0 ents, (exec_cfReadHeader_of_canRead hn hread).trans ?_, fun i hi => ?_, fun i hi => ?_⟩
    · simp only [ended, statusOk, askedMore, State.setHdr, State.setFt, State.readPast, State.setSrc, State.setEnv,
        State.dropTree, State.setTree, State.setCodes, State.setDec]
      rfl
    · rw [hents, if_pos (by omega), Nat.sub_zero]
    · rw [hents, if_neg (by omega)]
  · obtain ⟨hlen, hcutAfter⟩ := cutAfter_of_firstFails (s := s.setSeqStep 0#4) hio (headerReads_le _)
    have hcut := headerCut_take (by simpa using hio.lt)
    refine ⟨_, headerAfter_cut hcut, (exec_cfReadHeader_of_ioFailed (cfReadHeader_of_cut hcutAfter hcut)).trans ?_⟩
    rw [State.headerCut, unread_setSeqStep] at *
    rw [hlen]
    simp only [ended, ErrKind.code, askedMore, Env.countAsk, State.setStatus, State.setSeqStep, State.setHdr, State.setFt,
      State.readPast, State.setSrc, State.setEnv, State.dropTree, State.setTree, State.setCodes, State.setDec,
      Nat.add_assoc]

/-- Settles O37: both bytes of a wrong magic are read; a header cut short by the end of the source is read to it. -/
theorem cfReadHeaderFaults : Obligations.CfReadHeaderFaults := by
  refine fun s hio => ⟨fun m0 m1 rest hbs hbad => ?_, fun htr => ?_⟩
  · rw [hbs, headerReads_of_bad_magic hbad] at hio
    have hread : CanRead (s.setSeqStep 0#4) [m0, m1] := ⟨hio, rest, hbs.symm⟩
    refine ⟨ftEmpty, (exec_cfReadHeader_of_raised (cfReadHeader_of_bad_magic hread hbad)).trans ?_, ftAt_ftEmpty⟩
    simp only [ended, ErrKind.code, askedMore, State.setStatus, State.setSeqStep, State.setHdr, State.setFt,
      State.readPast, State.setSrc, State.setEnv, State.dropTree, State.setTree, State.setCodes, State.setDec]
  · rw [headerReads_of_truncated htr] at hio
    have hrun := cfReadHeader_of_cut (cutAfter_unread (s := s.setSeqStep 0#4) hio) htr.headerCut
    refine ⟨_, headerAfter_cut htr.headerCut, (exec_cfReadHeader_of_raised hrun).trans ?_⟩
    rw [State.headerCut, unread_setSeqStep]
    simp only [ended, ErrKind.code, askedMore, State.setStatus, State.setSeqStep, State.setHdr, State.setFt,
      State.readPast, State.setSrc, State.setEnv, State.dropTree, State.setTree, State.setCodes, State.setDec]

end Sys2Proof.Machine
end

section
/-! Bits sent to the BitWriter (44_bit_writer.md R116, R117): what a writer holds and has sent after a list of bits, and the
command that sends them, up to the first write that fails. -/
namespace Sys2Proof.Machine

/-! ### The writer -/

/-- The writer after one bit: the eighth of a byte empties it. -/
def BitWriter.push (w : BitWriter) (b : Bool) : BitWriter :=
  if w.nbits = 7#3 then (w.place b).flushed else { w.place b with nbits := w.nbits + 1#3 }

/-- The byte that one more bit completes, if it does. -/
def BitWriter.emit (w : BitWriter) (b : Bool) : List Byte := if w.nbits = 7#3 then [(w.place b).cur] else []

/-- The writer after these bits. -/
def BitWriter.pushAll (w : BitWriter) (bits : List Bool) : BitWriter := bits.foldl BitWriter.push w

/-- The bytes that these bits complete. -/
def BitWriter.emitAll : BitWriter → List Bool → List Byte
  | _, [] => []
  | w, b :: bits => w.emit b ++ (w.push b).emitAll bits

theorem BitWriter.push_of_full {w : BitWriter} (h : w.nbits = 7#3) (b : Bool) : w.push b = (w.place b).flushed :=
  if_pos h

theorem BitWriter.push_of_not_full {w : BitWriter} (h : w.nbits ≠ 7#3) (b : Bool) :
    w.push b = { w.place b with nbits := w.nbits + 1#3 } := if_neg h

theorem BitWriter.emit_of_full {w : BitWriter} (h : w.nbits = 7#3) (b : Bool) : w.emit b = [(w.place b).cur] :=
  if_pos h

theorem BitWriter.emit_of_not_full {w : BitWriter} (h : w.nbits ≠ 7#3) (b : Bool) : w.emit b = [] := if_neg h

theorem BitWriter.pushAll_append (w : BitWriter) (as bs : List Bool) :
    w.pushAll (as ++ bs) = (w.pushAll as).pushAll bs := List.foldl_append

theorem BitWriter.emitAll_append (w : BitWriter) (as bs : List Bool) :
    w.emitAll (as ++ bs) = w.emitAll as ++ (w.pushAll as).emitAll bs := by
  induction as generalizing w with
  | nil => rfl
  | cons a as ih =>
    rw [List.cons_append, emitAll, emitAll, ih, List.append_assoc]
    rfl

/-- The number of bits of the byte in hand goes round from 7 to 0. -/
theorem BitWriter.nbits_push (w : BitWriter) (b : Bool) : (w.push b).nbits.toNat = (w.nbits.toNat + 1) % 8 := by
  by_cases h : w.nbits = 7#3
  · rw [push_of_full h, h]
    rfl
  · rw [push_of_not_full h, BitVec.toNat_add]
    rfl

theorem BitWriter.length_emit (w : BitWriter) (b : Bool) : (w.emit b).length = (w.nbits.toNat + 1) / 8 := by
  by_cases h : w.nbits = 7#3
  · rw [emit_of_full h, h]
    rfl
  · have hlt : w.nbits.toNat + 1 < 8 := by bv_omega
    rw [emit_of_not_full h, Nat.div_eq_of_lt hlt]
    rfl

theorem BitWriter.nbits_pushAll (w : BitWriter) (bits : List Bool) :
    (w.pushAll bits).nbits.toNat = (w.nbits.toNat + bits.length) % 8 := by
  induction bits generalizing w with
  | nil => exact (Nat.mod_eq_of_lt w.nbits.isLt).symm
  | cons b bits ih =>
    refine (ih (w.push b)).trans ?_
    rw [nbits_push, List.length_cons]
    omega

theorem BitWriter.length_emitAll (w : BitWriter) (bits : List Bool) :
    (w.emitAll bits).length = w.sends bits.length := by
  induction bits generalizing w with
  | nil => exact (Nat.div_eq_of_lt w.nbits.isLt).symm
  | cons b bits ih =>
    rw [emitAll, List.length_append, ih, length_emit, sends, sends, nbits_push, List.length_cons]
    omega

theorem BitWriter.total_push (w : BitWriter) (b : Bool) : (w.push b).total = w.total + 1 := by
  rw [push]
  split <;> rfl

theorem BitWriter.total_pushAll (w : BitWriter) (bits : List Bool) :
    (w.pushAll bits).total = w.total + bits.length := by
  induction bits generalizing w with
  | nil => rfl
  | cons b bits ih =>
    refine (ih (w.push b)).trans ?_
    rw [total_push, List.length_cons]
    omega

/-- The full byte is the seven bits pending and the eighth. -/
theorem bytesBits_place_of_full {w : BitWriter} (h : w.nbits = 7#3) (b : Bool) :
    bytesBits [(w.place b).cur] = pendingBits w ++ [b] := by
  rw [← bits_place, h, bytesBits, List.flatMap_singleton]
  rfl

theorem BitWriter.bits_push (w : BitWriter) (b : Bool) :
    bytesBits (w.emit b) ++ pendingBits (w.push b) = pendingBits w ++ [b] := by
  by_cases h : w.nbits = 7#3
  · rw [emit_of_full h, push_of_full h, bytesBits_place_of_full h]
    exact List.append_nil _
  · rw [emit_of_not_full h, push_of_not_full h, ← bits_place, ← toNat_nbits_succ h]
    rfl

/-- The bits pending and those pushed are the bits of the bytes sent and those then pending (44_bit_writer.md R116). -/
theorem BitWriter.bits_pushAll (w : BitWriter) (bits : List Bool) :
    bytesBits (w.emitAll bits) ++ pendingBits (w.pushAll bits) = pendingBits w ++ bits := by
  induction bits generalizing w with
  | nil => exact (List.append_nil _).symm
  | cons b bits ih =>
    have hrest : bytesBits ((w.push b).emitAll bits) ++ pendingBits (w.pushAll (b :: bits)) =
        pendingBits (w.push b) ++ bits := ih (w.push b)
    rw [emitAll, bytesBits_append, List.append_assoc, hrest, ← List.append_assoc, bits_push, List.append_assoc]
    rfl

theorem BitWriter.Clean.push {w : BitWriter} (h : w.Clean) (b : Bool) : (w.push b).Clean := by
  by_cases hn : w.nbits = 7#3
  · rw [push_of_full hn]
    exact clean_flushed _
  · rw [push_of_not_full hn]
    intro j hj
    have hj : j < 8 - (w.nbits + 1#3).toNat := hj
    have hsucc := toNat_nbits_succ hn
    show (w.place b).cur.getLsbD j = false
    rw [place_cur, getLsbD_putBit _ _ (by omega) (by omega), if_neg (by omega)]
    exact h j (by omega)

theorem BitWriter.Clean.pushAll {w : BitWriter} (h : w.Clean) (bits : List Bool) : (w.pushAll bits).Clean := by
  induction bits generalizing w with
  | nil => exact h
  | cons b bits ih => exact ih (h.push b)

/-- The bytes of one more bit, then those of the others. -/
theorem BitWriter.sends_succ (w : BitWriter) (b : Bool) (n : Nat) :
    w.sends (n + 1) = (w.emit b).length + (w.push b).sends n := by
  rw [length_emit, sends, sends, nbits_push]
  omega

theorem length_pendingBits (w : BitWriter) : (pendingBits w).length = w.nbits.toNat := by simp [pendingBits]

/-! ### The state -/

/-- The state after these bits were sent. -/
def State.sent (s : State) (bits : List Bool) : State :=
  { s with
    bw := s.bw.pushAll bits
    sink := s.sink.putAll (s.bw.emitAll bits)
    env := askedMore s (s.bw.emitAll bits).length }

@[simp] theorem State.sent_nil (s : State) : s.sent [] = s := rfl

theorem State.sent_append (s : State) (as bs : List Bool) : s.sent (as ++ bs) = (s.sent as).sent bs := by
  simp only [State.sent, askedMore, BitWriter.pushAll_append, BitWriter.emitAll_append, Stream.putAll_append,
    List.length_append, Nat.add_assoc]

theorem State.sent_cons (s : State) (b : Bool) (bits : List Bool) : s.sent (b :: bits) = (s.sent [b]).sent bits :=
  s.sent_append [b] bits

/-- The state after a write failed whose byte this bit had completed: the bit is placed, the byte not out
(44_bit_writer.md R116). -/
def State.stalled (s : State) (b : Bool) : State := (s.setBw (s.bw.place b)).failedAsk

theorem State.sent_of_not_full {s : State} (h : s.bw.nbits ≠ 7#3) (b : Bool) :
    s.sent [b] = s.setBw { s.bw.place b with nbits := s.bw.nbits + 1#3 } := by
  have hemit : s.bw.emitAll [b] = [] := by rw [BitWriter.emitAll, BitWriter.emit_of_not_full h]; rfl
  have hpush : s.bw.pushAll [b] = s.bw.push b := rfl
  rw [State.sent, hemit, hpush, BitWriter.push_of_not_full h]
  rfl

theorem State.sent_of_full {s : State} (h : s.bw.nbits = 7#3) (b : Bool) :
    s.sent [b] = ((s.setBw (s.bw.place b)).wrote [(s.bw.place b).cur]).setBw (s.bw.place b).flushed := by
  have hemit : s.bw.emitAll [b] = [(s.bw.place b).cur] := by rw [BitWriter.emitAll, BitWriter.emit_of_full h]; rfl
  have hpush : s.bw.pushAll [b] = s.bw.push b := rfl
  rw [State.sent, hemit, hpush, BitWriter.push_of_full h]
  rfl

/-- Where the cursor of OUT stands after bits were sent. -/
theorem pos_putAll {x : Stream} {n : Nat} {bs : List Byte} (h : x.Room (bs.length + n)) :
    (x.putAll bs).pos = x.pos + BitVec.ofNat 64 bs.length := by
  rw [h.putAll.atEnd, Stream.len_putAll, h.atEnd]

/-! ### WriteBit -/

theorem writeBit_of_noneFails {s : State} {n : Nat} {b : Bool} (h : s.sink.Room ((s.bw.emit b).length + n))
    (hio : NoneFails s (writeAsks s.sink.pos (s.bw.emit b).length)) : writeBit b s = .ok () (s.sent [b]) := by
  by_cases hn : s.bw.nbits = 7#3
  · rw [BitWriter.emit_of_full hn] at h hio
    rw [List.length_singleton, writeAsks_succ] at hio
    have hfirst : ioFails s.env .out s.sink.pos = false := ((noneFails_cons (t := s.failedAsk) rfl _ _).1 hio).1
    have hroom : (s.setBw (s.bw.place b)).sink.Room (n + 1) := (Nat.add_comm 1 n) ▸ h
    rw [writeBit_of_full hn (sinkByte_of_room (s := s.setBw (s.bw.place b)) _ hroom hfirst), State.sent_of_full hn]
    rfl
  · rw [writeBit_eq_place b hn, State.sent_of_not_full hn]

theorem writeBit_of_firstFails {s : State} {b : Bool} {k : Nat}
    (hio : FirstFails s (writeAsks s.sink.pos (s.bw.emit b).length) k) :
    k = 0 ∧ s.bw.nbits = 7#3 ∧ writeBit b s = .error (.ioFailed .out) (s.stalled b) := by
  by_cases hn : s.bw.nbits = 7#3
  · rw [BitWriter.emit_of_full hn, List.length_singleton] at hio
    have hk : k < 1 := by simpa using hio.lt
    rw [writeAsks_succ] at hio
    obtain rfl : k = 0 := by omega
    exact ⟨rfl, hn, writeBit_of_full_ioFails b hn ((firstFails_zero s _ _).1 hio)⟩
  · rw [BitWriter.emit_of_not_full hn] at hio
    exact absurd hio.lt (Nat.not_lt_zero k)

/-! ### A list of bits -/

/-- WriteBit of each bit in turn. -/
def sendBits : List Bool → Cmd Unit
  | [] => pure ()
  | b :: bits => do
    writeBit b
    sendBits bits

theorem writeBitsFrom_eq_sendBits (v : Pattern) (i n : Nat) :
    writeBitsFrom v i n = sendBits ((List.range n).map fun j => v.getLsbD (i + j)) := by
  induction n generalizing i with
  | zero => rfl
  | succ n ih =>
    rw [writeBitsFrom, ih, List.range_succ_eq_map, List.map_cons, List.map_map, sendBits]
    simp only [Function.comp_def, Nat.succ_eq_add_one, Nat.add_zero, Nat.add_assoc, Nat.add_comm 1]

/-- WriteBits(value, length) sends the bits of the pattern (44_bit_writer.md R117). -/
theorem writeBits_eq_sendBits (v : Pattern) (n : Nat) : writeBits v n = sendBits (patternBits v n) := by
  rw [writeBits, writeBitsFrom_eq_sendBits, patternBits]
  simp only [Nat.zero_add]

section
variable {s : State} {bits : List Bool} {n : Nat}

/-- The accesses of a list of bits: those of the first, then those of the others. -/
theorem writeAsks_sends_succ (w : BitWriter) (b : Bool) (n : Nat) (pos : Word) :
    writeAsks pos (w.sends (n + 1)) = writeAsks pos (w.emit b).length ++
      writeAsks (pos + BitVec.ofNat 64 (w.emit b).length) ((w.push b).sends n) := by
  rw [BitWriter.sends_succ w b, writeAsks_append]

theorem Stream.Room.sent_one {b : Bool} (h : s.sink.Room (s.bw.sends (n + 1))) :
    s.sink.Room ((s.bw.emit b).length + (s.bw.push b).sends n) ∧ (s.sent [b]).sink.Room ((s.bw.push b).sends n) ∧
      (s.sent [b]).sink.pos = s.sink.pos + BitVec.ofNat 64 (s.bw.emit b).length ∧
      (s.sent [b]).env = askedMore s (writeAsks s.sink.pos (s.bw.emit b).length).length := by
  have hemit : s.bw.emitAll [b] = s.bw.emit b := List.append_nil _
  rw [BitWriter.sends_succ s.bw b] at h
  rw [State.sent, hemit, length_writeAsks]
  exact ⟨h, h.putAll, pos_putAll h, rfl⟩

theorem sendBits_of_noneFails (h : s.sink.Room (s.bw.sends bits.length))
    (hio : NoneFails s (writeAsks s.sink.pos (s.bw.sends bits.length))) : sendBits bits s = .ok () (s.sent bits) := by
  induction bits generalizing s with
  | nil => rfl
  | cons b bits ih =>
    obtain ⟨hb, hrest, hpos, henv⟩ := Stream.Room.sent_one (b := b) h
    rw [List.length_cons, writeAsks_sends_succ s.bw b] at hio
    rw [State.sent_cons]
    exact (Cmd.run_bind_ok (writeBit_of_noneFails hb hio.append_left)).trans
      (ih hrest (hpos.symm ▸ hio.append_right henv))

/-- The write that fails is that of the byte which one of the bits completes. -/
theorem sendBits_of_firstFails {k : Nat} (h : s.sink.Room (s.bw.sends bits.length))
    (hio : FirstFails s (writeAsks s.sink.pos (s.bw.sends bits.length)) k) :
    ∃ pre b post, bits = pre ++ b :: post ∧ (s.bw.pushAll pre).nbits = 7#3 ∧ (s.bw.emitAll pre).length = k ∧
      sendBits bits s = .error (.ioFailed .out) ((s.sent pre).stalled b) := by
  induction bits generalizing s k with
  | nil =>
    have hlt := hio.lt
    rw [length_writeAsks, ← BitWriter.length_emitAll] at hlt
    exact absurd hlt (Nat.not_lt_zero k)
  | cons b bits ih =>
    obtain ⟨hb, hrest, hpos, henv⟩ := Stream.Room.sent_one (b := b) h
    rw [List.length_cons, writeAsks_sends_succ s.bw b] at hio
    obtain hio | ⟨hnone, j, rfl, hrestIo⟩ := hio.append_cases henv
    · obtain ⟨rfl, hn, hrun⟩ := writeBit_of_firstFails hio
      exact ⟨[], b, bits, rfl, hn, rfl, Cmd.run_bind_error hrun⟩
    · obtain ⟨pre, c, post, rfl, hn, rfl, hrun⟩ := ih hrest (hpos.symm ▸ hrestIo)
      refine ⟨b :: pre, c, post, rfl, hn, ?_, ?_⟩
      · rw [length_writeAsks, BitWriter.emitAll, List.length_append]
        rfl
      · rw [State.sent_cons]
        exact (Cmd.run_bind_ok (writeBit_of_noneFails hb hnone)).trans hrun

end

/-! ### What a stalled writer holds -/

/-- The bits out and in the full byte are the first of those sent (44_bit_writer.md R116). -/
theorem bits_stalled {w : BitWriter} {pre post : List Bool} {b : Bool} (h : (w.pushAll pre).nbits = 7#3) :
    bytesBits (w.emitAll pre ++ [((w.pushAll pre).place b).cur]) =
        (pendingBits w ++ (pre ++ b :: post)).take (8 * ((w.emitAll pre).length + 1)) ∧
      w.nbits.toNat + pre.length + 1 = 8 * ((w.emitAll pre).length + 1) := by
  have hn := BitWriter.nbits_pushAll w pre
  have hlen := BitWriter.length_emitAll w pre
  rw [h] at hn
  have hn : 7 = (w.nbits.toNat + pre.length) % 8 := hn
  rw [BitWriter.sends] at hlen
  have hbits : w.nbits.toNat + pre.length + 1 = 8 * ((w.emitAll pre).length + 1) := by omega
  refine ⟨?_, hbits⟩
  have hpre : pendingBits w ++ (pre ++ b :: post) = (pendingBits w ++ pre ++ [b]) ++ post := by simp
  rw [bytesBits_append, bytesBits_place_of_full h, ← List.append_assoc, BitWriter.bits_pushAll, hpre, List.take_left']
  simp only [List.length_append, length_pendingBits, List.length_singleton]
  exact hbits

theorem total_stalled {w : BitWriter} {pre : List Bool} (b : Bool) (h : (w.pushAll pre).nbits = 7#3) :
    ((w.pushAll pre).place b).total + w.nbits.toNat = w.total + 8 * ((w.emitAll pre).length + 1) := by
  obtain ⟨-, hbits⟩ := bits_stalled (post := []) (b := b) h
  rw [BitWriter.place_total, BitWriter.total_pushAll]
  omega

/-! ### BW_WRITE_BITS -/

theorem length_patternBits (v : Pattern) (n : Nat) : (patternBits v n).length = n := by simp [patternBits]

/-- The bytes that bits complete, at the end of OUT. -/
theorem appended_sent {s : State} {bits : List Bool} (h : s.sink.Room (s.bw.sends bits.length)) (hwf : s.sink.mem.wf) :
    Appended s.sink (s.bw.emitAll bits) (s.sent bits).sink :=
  appended_putAll (by rwa [BitWriter.length_emitAll]) hwf

theorem BitWriter.sends_le_of_prefix {w : BitWriter} {pre post : List Bool} :
    w.sends pre.length ≤ w.sends (pre ++ post).length :=
  Nat.div_le_div_right (Nat.add_le_add_left (by rw [List.length_append]; exact Nat.le_add_right _ _) _)

theorem exec_bwWriteBits_eq {s : State} (h : s.b.toNat ≤ 256) :
    exec .bwWriteBits s = issue (sendBits (patternBits s.a s.b.toNat)) s := by
  have hbody : bwWriteBits (opPattern s) (opLength s) = sendBits (patternBits s.a s.b.toNat) := by
    rw [bwWriteBits, if_neg (show ¬256 < opLength s from Nat.not_lt.2 h), writeBits_eq_sendBits]
    rfl
  exact congrArg (issue · s) hbody

/-- Settles O28: the command sends the bits of the pattern, all of them or those before the write that fails. -/
theorem bwWriteBitsAppends : Obligations.BwWriteBitsAppends := by
  intro s hb hend hfits hwf
  rw [exec_bwWriteBits_eq hb]
  have hlen := length_patternBits s.a s.b.toNat
  have hroom : s.sink.Room (s.bw.sends (patternBits s.a s.b.toNat).length) :=
    ⟨hend, by rw [hlen, BitWriter.sends]; have := s.bw.nbits.isLt; omega⟩
  generalize patternBits s.a s.b.toNat = bits at hlen hroom
  rw [← hlen]
  refine ⟨fun hio => ?_, fun k hio => ?_⟩
  · have happ := appended_sent hroom hwf
    exact ⟨_, _, issue_of_ok (sendBits_of_noneFails (s := s.setSeqStep 0#4) hroom hio), happ.outBytes,
      s.bw.bits_pushAll bits, s.bw.total_pushAll bits, fun h => h.pushAll bits, happ.atEnd, happ.wf,
      fun _ => happ.above, rfl⟩
  · obtain ⟨pre, b, post, rfl, hn, rfl, hrun⟩ := sendBits_of_firstFails (s := s.setSeqStep 0#4) hroom hio
    have happ := appended_sent (hroom.le BitWriter.sends_le_of_prefix) hwf
    exact ⟨_, _, issue_of_error_io hrun, happ.outBytes, rfl, (bits_stalled hn).1, hn, total_stalled b hn, happ.atEnd,
      happ.wf, fun _ => happ.above, rfl⟩

end Sys2Proof.Machine
end

section
/-! The BitReader (45_bit_reader.md R126, R127): the bits it can still give, ReadBit of the first of them, and what a run of
reads leaves. -/
namespace Sys2Proof.Machine

/-- The state after the reader has given the next k bits it can give. -/
def State.readBits (s : State) (k : Nat) : State :=
  (s.readPast (s.br.fetched k)).setBr (s.br.after (unread s) k)

/-! ### Registers of the reader -/

theorem BitReader.after_zero (r : BitReader) (bs : List Byte) : r.after bs 0 = r := by
  rw [after, if_pos (Nat.zero_le _), Nat.sub_zero, BitVec.ofNat_toNat, BitVec.setWidth_eq]

theorem BitReader.fetched_of_le {r : BitReader} {k : Nat} (h : k ≤ r.left.toNat) : r.fetched k = 0 := by
  rw [fetched, Nat.sub_eq_zero_of_le h]

theorem State.readBits_zero (s : State) : s.readBits 0 = s := by
  rw [readBits, BitReader.fetched_of_le (Nat.zero_le _), BitReader.after_zero, readPast_zero]
  rfl

/-- One bit of those in hand. -/
theorem BitReader.after_one_of_left {r : BitReader} (h : r.left ≠ 0#4) (bs : List Byte) :
    r.after bs 1 = { r with left := r.left - 1#4 } ∧ r.fetched 1 = 0 := by
  have hpos : 1 ≤ r.left.toNat := by bv_omega
  have hleft : BitVec.ofNat 4 (r.left.toNat - 1) = r.left - 1#4 := by bv_omega
  rw [after, if_pos hpos, hleft]
  exact ⟨rfl, fetched_of_le hpos⟩

/-- The first bit of the next byte. -/
theorem BitReader.after_one_of_empty {r : BitReader} (h : r.left = 0#4) (b : Byte) (bs : List Byte) :
    r.after (b :: bs) 1 = { cur := b, left := 7#4, finished := r.finished } ∧ r.fetched 1 = 1 := by
  rw [after, fetched, h]
  exact ⟨rfl, rfl⟩

/-- One bit, then n more (45_bit_reader.md R126). -/
theorem BitReader.after_one_after {r : BitReader} (h : r.left ≤ 8#4) (bs : List Byte) (n : Nat) :
    (r.after bs 1).after (bs.drop (r.fetched 1)) n = r.after bs (n + 1) ∧
      r.fetched (n + 1) = r.fetched 1 + (r.after bs 1).fetched n := by
  have h8 : r.left.toNat ≤ 8 := h
  by_cases h0 : r.left = 0#4
  · have hfetched : r.fetched 1 = 1 := by rw [fetched, h0]; rfl
    have hleft : (r.after bs 1).left.toNat = 7 := by rw [after, fetched, h0]; rfl
    have hone : r.after bs 1 = { r with cur := bs.getD 0 0#8, left := 7#4 } := by rw [after, fetched, h0]; rfl
    have hcount : r.fetched (n + 1) = 1 + (r.after bs 1).fetched n := by
      rw [fetched, fetched, hleft, h0, BitVec.toNat_ofNat]
      omega
    refine ⟨?_, by rw [hcount, hfetched]⟩
    rw [after, after.eq_1 r bs (n + 1), hleft, hcount, hfetched, h0]
    by_cases hn : n ≤ 7
    · rw [if_pos hn, if_neg (by simp), hone]
      have hf : (r.after bs 1).fetched n = 0 := fetched_of_le (by omega)
      rw [hone] at hf
      rw [hf]
      congr 1
      rw [BitVec.toNat_ofNat]
      congr 1
      omega
    · rw [if_neg hn, if_neg (by simp), List.getD_eq_getElem?_getD, List.getD_eq_getElem?_getD, List.getElem?_drop]
      have hf : (r.after bs 1).fetched n = n / 8 := by rw [fetched, hleft]; omega
      rw [hf, hone, Nat.add_sub_cancel_left, Nat.add_sub_cancel' (by omega)]
      congr 1
      rw [BitVec.toNat_ofNat]
      congr 1
      omega
  · have hpos : 1 ≤ r.left.toNat := by bv_omega
    obtain ⟨hone, hfetched⟩ := after_one_of_left h0 bs
    have hleft : (r.left - 1#4).toNat = r.left.toNat - 1 := by bv_omega
    rw [hone, hfetched, List.drop_zero]
    have hcount : r.fetched (n + 1) = ({ r with left := r.left - 1#4 } : BitReader).fetched n := by
      rw [fetched, fetched, hleft]
      omega
    refine ⟨?_, by rw [Nat.zero_add, hcount]⟩
    rw [after, after, hcount, hleft]
    by_cases hn : n + 1 ≤ r.left.toNat
    · rw [if_pos hn, if_pos (by omega), show r.left.toNat - 1 - n = r.left.toNat - (n + 1) by omega]
    · rw [if_neg hn, if_neg (by omega)]
      congr 2
      omega

/-! ### The bits the reader can give -/

/-- The reader has no bit left: none in hand, and the source has ended. -/
theorem reader_of_no_bits {s : State} (h : availableBits s = []) :
    s.br.left = 0#4 ∧ (s.br.finished = true ∨ unread s = []) := by
  rw [availableBits, List.append_eq_nil_iff] at h
  have hleft := congrArg List.length h.1
  rw [length_readerBits] at hleft
  refine ⟨BitVec.eq_of_toNat_eq hleft, ?_⟩
  cases hf : s.br.finished with
  | true => exact .inl rfl
  | false =>
    have hbytes := congrArg List.length h.2
    rw [hf, if_neg Bool.false_ne_true, length_bytesBits] at hbytes
    exact .inr (List.eq_nil_of_length_eq_zero (by simpa using hbytes))

/-- The reader has a bit, but none in hand: it is the first of the next byte. -/
theorem reader_of_empty {s : State} {b : Bool} {bits : List Bool} (h : availableBits s = b :: bits)
    (h0 : s.br.left = 0#4) :
    ∃ v vs, s.br.finished = false ∧ unread s = v :: vs ∧ b = v.getLsbD 7 ∧
      bits = readerBits { cur := v, left := 7#4, finished := false } ++ bytesBits vs := by
  rw [availableBits, readerBits_of_empty h0, List.nil_append] at h
  cases hf : s.br.finished with
  | true => rw [hf, if_pos rfl] at h; cases h
  | false =>
    rw [hf, if_neg Bool.false_ne_true] at h
    cases hun : unread s with
    | nil => rw [hun] at h; cases h
    | cons v vs =>
      rw [hun, bytesBits_cons, List.cons_append, List.cons.injEq] at h
      exact ⟨v, vs, rfl, rfl, h.1.symm, h.2.symm⟩

/-! ### ReadBit -/

section
variable {s : State} {b : Bool} {bits : List Bool}

/-- With no bit left the end of the stream is observed (45_bit_reader.md R127). -/
theorem readBit_of_no_bits (h : availableBits s = []) : readBit s = .error (.raised .endOfStream) s.setFinished := by
  obtain ⟨h0, hend⟩ := reader_of_no_bits h
  refine readBit_of_refill_error h0 ?_
  cases hf : s.br.finished with
  | true =>
    have hsame : s.setFinished = s := by
      rw [State.setFinished, ← hf]
      rfl
    rw [refill_of_finished hf, hsame]
  | false =>
    rw [hf] at hend
    exact refill_at_end hf (unread_eq_nil_iff.1 (hend.resolve_left Bool.false_ne_true))

theorem readBit_of_bit (h : availableBits s = b :: bits) (h8 : s.br.left ≤ 8#4)
    (hio : s.br.left = 0#4 → ioFails s.env .inp s.src.pos = false) : readBit s = .ok b (s.readBits 1) := by
  by_cases h0 : s.br.left = 0#4
  · obtain ⟨v, vs, hf, hun, rfl, -⟩ := reader_of_empty h h0
    obtain ⟨hlt, hread, -⟩ := unread_eq_cons hun
    obtain ⟨hafter, hfetched⟩ := BitReader.after_one_of_empty h0 v vs
    rw [readBit_of_pos_lt_len h0 hf hlt (hio h0), State.readBits, hun, hafter, hfetched, hf, hread, State.fetched, hread]
    rfl
  · obtain ⟨hafter, hfetched⟩ := BitReader.after_one_of_left h0 (unread s)
    rw [availableBits, readerBits_eq_cons h0, List.cons_append, List.cons.injEq] at h
    rw [readBit_of_left h0 h8, State.readBits, hafter, hfetched, State.readPast_zero, h.1]

theorem readBit_of_bit_ioFails (h : availableBits s = b :: bits) (h0 : s.br.left = 0#4)
    (hio : ioFails s.env .inp s.src.pos = true) : readBit s = .error (.ioFailed .inp) s.failedAsk := by
  obtain ⟨v, vs, hf, hun, -⟩ := reader_of_empty h h0
  exact readBit_of_refill_error h0 (refill_of_ioFails hf (unread_eq_cons hun).1 hio)

/-- The bits left after one. -/
theorem availableBits_readBits_one (h : availableBits s = b :: bits) : availableBits (s.readBits 1) = bits := by
  by_cases h0 : s.br.left = 0#4
  · obtain ⟨v, vs, hf, hun, -, rfl⟩ := reader_of_empty h h0
    obtain ⟨hafter, hfetched⟩ := BitReader.after_one_of_empty h0 v vs
    have hnext : unread (s.readPast 1) = vs := unread_readPast_one hun
    rw [availableBits, State.readBits, hun, hafter, hfetched, hf]
    show _ ++ bytesBits (unread (s.readPast 1)) = _
    rw [hnext]
    rfl
  · obtain ⟨hafter, hfetched⟩ := BitReader.after_one_of_left h0 (unread s)
    rw [availableBits, readerBits_eq_cons h0, List.cons_append, List.cons.injEq] at h
    rw [← h.2, availableBits, State.readBits, hafter, hfetched, State.readPast_zero]
    rfl

theorem left_readBits_one (h8 : s.br.left ≤ 8#4) : (s.readBits 1).br.left ≤ 8#4 := by
  by_cases h0 : s.br.left = 0#4
  · have hleft : (s.readBits 1).br.left = 7#4 := by
      show (s.br.after (unread s) 1).left = 7#4
      rw [BitReader.after, BitReader.fetched, h0]
      rfl
    rw [hleft]
    decide
  · show (s.br.after (unread s) 1).left ≤ 8#4
    rw [(BitReader.after_one_of_left h0 _).1]
    show s.br.left - 1#4 ≤ 8#4
    bv_omega

/-- How many bytes of those unread one bit takes. -/
theorem fetched_one_le (h : availableBits s = b :: bits) : s.br.fetched 1 ≤ (unread s).length := by
  by_cases h0 : s.br.left = 0#4
  · obtain ⟨v, vs, -, hun, -⟩ := reader_of_empty h h0
    rw [hun, (BitReader.after_one_of_empty h0 v vs).2, List.length_cons]
    omega
  · rw [(BitReader.after_one_of_left h0 (unread s)).2]
    omega

/-- One bit, then n more. -/
theorem State.readBits_one_readBits (h : availableBits s = b :: bits) (h8 : s.br.left ≤ 8#4) (n : Nat) :
    (s.readBits 1).readBits n = s.readBits (n + 1) := by
  obtain ⟨hafter, hfetched⟩ := BitReader.after_one_after h8 (unread s) n
  have hun : unread (s.readBits 1) = (unread s).drop (s.br.fetched 1) := unread_readPast (fetched_one_le h)
  rw [readBits, hun]
  show (((s.readPast (s.br.fetched 1)).setBr _).readPast ((s.br.after (unread s) 1).fetched n)).setBr
    ((s.br.after (unread s) 1).after _ n) = _
  rw [hafter, readBits, hfetched, ← State.readPast_readPast]
  rfl

end

/-! ### BR_INIT and BR_READ_BIT issued by the host -/

/-- A reader that the host reads from: these bits are left, and the host asks for n of them. -/
structure Reading (bits : List Bool) (n : Nat) (s : State) : Prop where
  bits : availableBits s = bits
  left : s.br.left ≤ 8#4
  noFaults : s.env.ioFaults = []
  host : s.host = List.replicate n (.writeCmd 0x51#8)

theorem Reading.step_eq {bits : List Bool} {n : Nat} {s : State} (h : Reading bits (n + 1) s) :
    step s = exec .brReadBit { s with cmd := 0x51#8, host := List.replicate n (.writeCmd 0x51#8) } :=
  step_writeCmd (h.host.trans List.replicate_succ) rfl

theorem Reading.step_cons {b : Bool} {bits : List Bool} {n : Nat} {s : State} (h : Reading (b :: bits) (n + 1) s) :
    ∃ t, step s = .next t ∧ Reading bits n t ∧ t.status = 0x00#8 ∧ t.r0 = bitWord b := by
  refine ⟨_, h.step_eq.trans (exec_brReadBit_of_ok (readBit_of_bit h.bits h.left
    fun _ => ioFails_of_nil h.noFaults _ _)), ⟨availableBits_readBits_one (s := s) h.bits, left_readBits_one h.left,
      h.noFaults, rfl⟩, rfl, rfl⟩

theorem Reading.step_nil {n : Nat} {s : State} (h : Reading [] (n + 1) s) :
    ∃ t, step s = .next t ∧ t.status = 0x0D#8 :=
  ⟨_, h.step_eq.trans (exec_brReadBit_of_raised (readBit_of_no_bits h.bits)), rfl⟩

/-- As many reads as there are bits. -/
theorem Reading.run {bits rest : List Bool} {n : Nat} {s : State} (h : Reading (bits ++ rest) (bits.length + n) s) :
    ∃ t, Reading rest n t ∧ ∀ k, Sys2Proof.core.run (bits.length + k) s = Sys2Proof.core.run k t := by
  induction bits generalizing s with
  | nil => exact ⟨s, by simpa using h, fun k => by rw [List.length_nil, Nat.zero_add]⟩
  | cons b bits ih =>
    rw [List.length_cons, Nat.add_right_comm] at h
    obtain ⟨u, hu, hread, -⟩ := h.step_cons
    obtain ⟨t, ht, hrun⟩ := ih hread
    refine ⟨t, ht, fun k => ?_⟩
    rw [List.length_cons, Nat.add_right_comm]
    exact (run_succ_of_next hu).trans (hrun k)

/-- BR_INIT makes a reader of the unread bytes. -/
theorem reading_of_brInit {s : State} (hio : s.env.ioFaults = []) (n : Nat) :
    ∃ t, Reading (bytesBits (unread s)) n t ∧ ∀ k, Sys2Proof.core.run (k + 1)
      { s with host := .writeCmd 0x50#8 :: List.replicate n (.writeCmd 0x51#8) } = Sys2Proof.core.run k t := by
  have hinit : BitReader.init.left ≤ 8#4 := by decide
  refine ⟨ended { s with br := .init, cmd := 0x50#8, host := .replicate n (.writeCmd 0x51#8) } statusOk,
    ⟨rfl, hinit, hio, rfl⟩, fun _ => run_succ_of_next ?_⟩
  rw [step_writeCmd (i := .brInit) rfl rfl, exec_brInit]
  rfl

theorem getD_packed {bits : List Bool} {bytes : List Byte} (h : Packs bits bytes) (k : Nat) :
    (bytesBits bytes).getD k false = bits.getD k false := by
  rw [h, List.getD_eq_getElem?_getD, List.getD_eq_getElem?_getD, List.getElem?_append]
  split
  · rfl
  · rename_i hk
    rw [List.getElem?_eq_none (Nat.not_lt.1 hk), List.getElem?_replicate]
    split <;> rfl

/-- Settles O34: the reads give the bits of the unread bytes one after the other, which are those packed and zeros. -/
theorem readerUndoesWriter : Obligations.ReaderUndoesWriter := by
  intro s bits hpacks hio
  refine ⟨fun k hk => ?_, ?_⟩
  · rw [← getD_packed hpacks]
    obtain ⟨t, ht, hrun⟩ := reading_of_brInit hio (k + 1)
    rw [← length_bytesBits] at hk
    generalize bytesBits (unread s) = all at ht hk
    have hlen : (all.take k).length = k := List.length_take_of_le hk.le
    obtain ⟨u, hu, hreads⟩ := Reading.run (bits := all.take k) (rest := all.drop k) (n := 1)
      (by rwa [List.take_append_drop, hlen])
    rw [List.drop_eq_getElem_cons hk] at hu
    obtain ⟨v, hv, -, hok, hbit⟩ := hu.step_cons
    rw [hlen] at hreads
    refine ⟨v, ((hrun (k + 1)).trans (hreads 1)).trans (run_one_of_step hv), hok, ?_⟩
    rw [hbit, List.getD_eq_getElem?_getD, List.getElem?_eq_getElem hk]
    rfl
  · obtain ⟨t, ht, hrun⟩ := reading_of_brInit hio (8 * (unread s).length + 1)
    rw [← length_bytesBits] at ht hrun ⊢
    generalize bytesBits (unread s) = all at ht hrun
    obtain ⟨u, hu, hreads⟩ := Reading.run (bits := all) (rest := []) (n := 1) (by rwa [List.append_nil])
    obtain ⟨v, hv, hend⟩ := hu.step_nil
    exact ⟨v, ((hrun (all.length + 1)).trans (hreads 1)).trans (run_one_of_step hv), hend⟩

end Sys2Proof.Machine
end

section
/-! One step of the traversal (48_decode_traversal.md R157, R161): the move that a bit decides, the symbol of a leaf, and
DEC_STEP. -/
namespace Sys2Proof.Machine

/-! ### Moves -/

theorem ne_null_of_nodeAt {node : Vector Node 511} {c : NodeIx} {ch : Node} (h : nodeAt node c = some ch) :
    c ≠ Config.null := by
  rintro rfl
  rw [nodeAt, Vector.getElem?_eq_none (by decide)] at h
  cases h

section
variable {s : State} {c : NodeIx} {ch : Node}

theorem descend_of_internal (h : nodeAt s.tree.node c = some ch) (hk : ch.kind = .internal) :
    descend c s = .ok none (s.setDec { s.dec with cur := c }) := by
  rw [descend_eq (ne_null_of_nodeAt h) h, hk]

theorem descend_of_filler (h : nodeAt s.tree.node c = some ch) (hk : ch.kind = .leaf) (hf : ch.filler = true) :
    descend c s = .error (.raised .corruptStream) s := by
  rw [descend_eq (ne_null_of_nodeAt h) h, hk, hf]
  rfl

theorem descend_of_leaf (h : nodeAt s.tree.node c = some ch) (hk : ch.kind = .leaf) (hf : ch.filler = false) :
    descend c s = emitSymbol ch.sym s := by
  rw [descend_eq (ne_null_of_nodeAt h) h, hk, hf]
  rfl

end

/-- The state after a symbol went out and the traversal returned to the root. -/
def State.emitted (s : State) (x : Byte) : State :=
  (s.wrote [x]).setDec { s.dec with count := s.dec.count + 1#64, cur := s.tree.root }

theorem emitSymbol_of_room {s : State} {n : Nat} (x : Byte) (h : s.sink.Room (n + 1))
    (hio : ioFails s.env .out s.sink.pos = false) (hcount : s.dec.count ≠ BitVec.allOnes 64) :
    emitSymbol x s = .ok (some x) (s.emitted x) := by
  have hnext (e : Env) : nextDecCount e s.dec.count = s.dec.count + 1#64 := if_neg hcount
  rw [emitSymbol_eq, sinkByte_of_room x h hio, State.emitted, ← hnext (s.wrote [x]).env]
  rfl

theorem emitSymbol_of_ioFails {s : State} (x : Byte) (hio : ioFails s.env .out s.sink.pos = true) :
    emitSymbol x s = .error (.ioFailed .out) s.failedAsk := by
  rw [emitSymbol_eq, sinkByte_of_ioFails x hio]
  rfl

/-! ### One step -/

/-- A bit that is there comes to the move it decides. -/
theorem decStepBody_of_readBit {s u : State} {b : Bool} {nd : Node} (h : readBit s = .ok b u)
    (hnd : nodeAt u.tree.node u.dec.cur = some nd) :
    decStepBody s = descend (if b then nd.right else nd.left) u :=
  (Cmd.run_bind_ok (decReadBit_of_ok h)).trans
    ((Cmd.run_bind_ok (Cmd.run_getState u)).trans (Cmd.run_bind_ok (readNode_of_nodeAt hnd)))

/-- Settles O45: the bit is read, and its child is Internal, a real leaf, the filler or NULL. -/
theorem decStepWalks : Obligations.DecStepWalks := by
  refine ⟨fun s u b nd hd hbit hnd => ?_, fun s hd h0 hf hlt hio => ?_⟩
  · have hread : readBit (s.setSeqStep 0#4) = .ok b (u.setSeqStep 0#4) ∧ u.tree = s.tree ∧ u.dec = s.dec := by
      obtain ⟨h0, h8, rfl, rfl⟩ | ⟨h0, hf, hlt, hio, rfl, rfl⟩ := hbit
      · exact ⟨readBit_of_left (s := s.setSeqStep 0#4) h0 h8, rfl, rfl⟩
      · exact ⟨readBit_of_pos_lt_len (s := s.setSeqStep 0#4) h0 hf hlt hio, rfl, rfl⟩
    clear hbit
    obtain ⟨hread, htree, hdec⟩ := hread
    have hstep := decStepBody_of_readBit (nd := nd) hread (by
      rw [State.setSeqStep_tree, State.setSeqStep_dec, htree, hdec]
      exact hnd)
    rw [← htree, ← hdec]
    generalize (if b then nd.right else nd.left) = c at hstep ⊢
    refine ⟨fun ch hch => ⟨fun hk => ?_, fun hk hfill => ?_, fun hk hfill hio => ?_,
      fun hk hfill hio hend hlen hwf hcount => ?_⟩, ?_⟩
    · exact exec_decStep_of_ok hd (hstep.trans (descend_of_internal (s := u.setSeqStep 0#4) hch hk))
    · exact exec_decStep_of_error hd (hstep.trans (descend_of_filler (s := u.setSeqStep 0#4) hch hk hfill))
    · exact exec_decStep_of_error hd (hstep.trans ((descend_of_leaf (s := u.setSeqStep 0#4) hch hk hfill).trans
        (emitSymbol_of_ioFails (s := u.setSeqStep 0#4) ch.sym hio)))
    · have hroom : u.sink.Room (0 + 1) := ⟨hend, by omega⟩
      refine ⟨_, memWrite_wf ch.sym hwf u.sink.len.isLt, memRead_memWrite u.sink.len.toNat ch.sym hwf, ?_⟩
      exact exec_decStep_of_ok hd (hstep.trans ((descend_of_leaf (s := u.setSeqStep 0#4) hch hk hfill).trans
        (emitSymbol_of_room (s := u.setSeqStep 0#4) ch.sym hroom hio hcount)))
    · rintro rfl
      exact exec_decStep_of_error hd (hstep.trans (descend_null (u.setSeqStep 0#4)))
  · exact exec_decStep_of_error hd (Cmd.run_bind_error (decReadBit_of_ioFailed
      (readBit_of_refill_error (s := s.setSeqStep 0#4) h0 (refill_of_ioFails hf hlt hio))))

end Sys2Proof.Machine
end

section
/-! A tree of 10_state.md R27 as a shape: the records from the first to the last make a forest, in which an Internal record
joins its two children, and at the end one shape stands at ROOT. -/
namespace Sys2Proof.Machine

/-! ### The forest of the first records -/

/-- The symbol of a leaf, none for the filler. -/
def Node.label (n : Node) : Option Byte := if n.filler then none else some n.sym

/-- The first k records. -/
def Tree.firsts (t : Tree) (k : Nat) : List Node := (List.range k).map (recordAt t)

/-- The indices that these records own. -/
def childRefsOf (ns : List Node) : List NodeIx := ns.flatMap Node.children

/-- The leaves of these records. -/
def labelsOf (ns : List Node) : List (Option Byte) := (ns.filter fun n => n.kind == .leaf).map Node.label

theorem Tree.firsts_succ (t : Tree) (k : Nat) : t.firsts (k + 1) = t.firsts k ++ [recordAt t k] := by
  rw [firsts, List.range_succ, List.map_append]
  rfl

theorem childRefsOf_concat (ns : List Node) (n : Node) : childRefsOf (ns ++ [n]) = childRefsOf ns ++ n.children := by
  rw [childRefsOf, List.flatMap_append, List.flatMap_singleton]
  rfl

theorem labelsOf_concat_leaf (ns : List Node) {n : Node} (h : n.kind = .leaf) :
    labelsOf (ns ++ [n]) = labelsOf ns ++ [n.label] := by
  simp [labelsOf, h]

theorem labelsOf_concat_internal (ns : List Node) {n : Node} (h : n.kind = .internal) :
    labelsOf (ns ++ [n]) = labelsOf ns := by
  simp [labelsOf, h]

theorem childRefs_eq (t : Tree) : t.childRefs = childRefsOf (t.firsts t.cnt.toNat) := rfl

theorem Node.children_of_leaf {n : Node} (h : n.kind = .leaf) : n.children = [] := by rw [children, h]

theorem Node.children_of_internal {n : Node} (h : n.kind = .internal) : n.children = [n.left, n.right] := by
  rw [children, h]

/-- The entry whose value is this index. -/
def entryAt (i : NodeIx) : PqEntry := { value := i.setWidth 16, prio := 0#64, seq := 0 }

theorem value_entryAt (i : NodeIx) : (entryAt i).value.setWidth 9 = i := by simp [entryAt]

/-- The first k records are a forest: an index below k is the root of one of its shapes or is owned, and the shapes have the
leaves of these records. -/
structure Grown (t : Tree) (k : Nat) (roots : List NodeIx) : Prop where
  forest : Forest t (roots.map entryAt) (labelsOf (t.firsts k))
  once : ∀ i : NodeIx, roots.count i + (childRefsOf (t.firsts k)).count i = if i.toNat < k then 1 else 0
  count : k + roots.length = 2 * (labelsOf (t.firsts k)).length

theorem grown_zero (t : Tree) : Grown t 0 [] := ⟨forest_nil t, fun _ => rfl, rfl⟩

section
variable {t : Tree} {k : Nat} {roots : List NodeIx}

theorem toNat_ofNat_of_lt_cnt (hk : k < t.cnt.toNat) : (BitVec.ofNat 9 k).toNat = k :=
  Nat.mod_eq_of_lt (hk.trans t.cnt.isLt)

theorem count_cons_ofNat (hk : k < t.cnt.toNat) (i : NodeIx) :
    (BitVec.ofNat 9 k :: roots).count i = roots.count i + if i.toNat = k then 1 else 0 := by
  have hi : (BitVec.ofNat 9 k == i) = decide (i.toNat = k) := by
    rw [Bool.eq_iff_iff, beq_iff_eq, decide_eq_true_iff, ← BitVec.toNat_inj, toNat_ofNat_of_lt_cnt hk, eq_comm]
  simp [List.count_cons, hi]

/-- A leaf is a shape of its own. -/
theorem Grown.add_leaf (h : Grown t k roots) (hk : k < t.cnt.toNat) (hkind : (recordAt t k).kind = .leaf) :
    Grown t (k + 1) (BitVec.ofNat 9 k :: roots) := by
  have hlabels : labelsOf (t.firsts (k + 1)) = labelsOf (t.firsts k) ++ [(recordAt t k).label] := by
    rw [Tree.firsts_succ, labelsOf_concat_leaf _ hkind]
  have hshows : Shows t (.leaf (recordAt t k).label) (BitVec.ofNat 9 k) := by
    rw [Shows, toNat_ofNat_of_lt_cnt hk, Node.label]
    refine ⟨hk, hkind, ?_, fun x hx => ?_⟩ <;> cases hf : (recordAt t k).filler <;> simp_all
  refine ⟨?_, fun i => ?_, ?_⟩
  · rw [hlabels]
    exact forest_cons.2 ⟨.leaf (recordAt t k).label, labelsOf (t.firsts k), by rwa [value_entryAt], h.forest,
      (List.perm_append_singleton _ _).symm⟩
  · have honce := h.once i
    rw [count_cons_ofNat hk, Tree.firsts_succ, childRefsOf_concat, Node.children_of_leaf hkind, List.append_nil]
    split at honce <;> split <;> split <;> omega
  · have hcount := h.count
    rw [hlabels, List.length_append, List.length_cons, List.length_singleton]
    omega

/-- An Internal record joins the shapes of its children, which no earlier record owns. -/
theorem Grown.add_internal (h : Grown t k roots) (hk : k < t.cnt.toNat) (hkind : (recordAt t k).kind = .internal)
    (hbelow : ∀ c ∈ (recordAt t k).children, c.toNat < k)
    (honce : ∀ c ∈ (recordAt t k).children, (childRefsOf (t.firsts (k + 1))).count c ≤ 1) :
    ∃ roots', Grown t (k + 1) (BitVec.ofNat 9 k :: roots') := by
  have hrefs : childRefsOf (t.firsts (k + 1)) = childRefsOf (t.firsts k) ++ [(recordAt t k).left, (recordAt t k).right] := by
    rw [Tree.firsts_succ, childRefsOf_concat, Node.children_of_internal hkind]
  have hlabels : labelsOf (t.firsts (k + 1)) = labelsOf (t.firsts k) := by
    rw [Tree.firsts_succ, labelsOf_concat_internal _ hkind]
  rw [Node.children_of_internal hkind, List.forall_mem_cons,
    List.forall_mem_singleton] at hbelow honce
  generalize hl : (recordAt t k).left = l at *
  generalize hr : (recordAt t k).right = r at *
  have hpair (i : NodeIx) (hi : i.toNat < k) (hle : (childRefsOf (t.firsts (k + 1))).count i ≤ 1) :
      [l, r].count i ≤ roots.count i := by
    have hroots := h.once i
    rw [hrefs, List.count_append] at hle
    rw [if_pos hi] at hroots
    omega
  have hperm : ([l, r] ++ roots.diff [l, r]).Perm roots := by
    refine List.subperm_append_diff_self_of_count_le fun i hi => ?_
    obtain rfl | hi := List.mem_cons.1 hi
    · exact hpair _ hbelow.1 honce.1
    · obtain rfl := List.mem_singleton.1 hi
      exact hpair _ hbelow.2 honce.2
  generalize roots.diff [l, r] = roots' at hperm
  refine ⟨roots', ?_, fun i => ?_, ?_⟩
  · obtain ⟨L, osL, hL, hforest, hosL⟩ := forest_cons.1 (h.forest.perm (hperm.map entryAt))
    obtain ⟨R, osR, hR, hforest, hosR⟩ := forest_cons.1 hforest
    rw [value_entryAt] at hL hR
    have hshows : Shows t (.node L R) (BitVec.ofNat 9 k) := by
      rw [Shows, toNat_ofNat_of_lt_cnt hk, hl, hr]
      exact ⟨hk, hkind, hL, hR⟩
    rw [hlabels]
    refine forest_cons.2 ⟨.node L R, osR, by rwa [value_entryAt], hforest, ?_⟩
    rw [Shape.leaves, List.append_assoc]
    exact (hosR.append_left _).trans hosL
  · have hroots := h.once i
    have hbelow' : 0 < [l, r].count i → i.toNat < k := fun hpos => by
      obtain rfl | hi := List.mem_cons.1 (List.count_pos_iff.1 hpos)
      · exact hbelow.1
      · rw [List.mem_singleton.1 hi]
        exact hbelow.2
    rw [← hperm.count_eq i, List.count_append] at hroots
    rw [count_cons_ofNat hk, hrefs, List.count_append]
    split at hroots <;> split <;> split <;> omega
  · have hcount := h.count
    rw [← hperm.length_eq, List.length_append] at hcount
    rw [hlabels, List.length_cons]
    simp only [List.length_cons, List.length_nil] at hcount
    omega

end

/-! ### The whole tree -/

section
variable {t : Tree}

theorem TreeInv.count_childRefs_le (h : TreeInv t) {k : Nat} (hk : k ≤ t.cnt.toNat) {c : NodeIx}
    (hc : c.toNat < t.cnt.toNat) : (childRefsOf (t.firsts k)).count c ≤ 1 := by
  have honce := h.ownedOnce c.toNat hc
  rw [BitVec.ofNat_toNat, BitVec.setWidth_eq, childRefs_eq] at honce
  obtain ⟨j, hj⟩ := Nat.exists_eq_add_of_le hk
  have hsplit : t.firsts t.cnt.toNat = t.firsts k ++ (List.range' k j).map (recordAt t) := by
    rw [hj, Tree.firsts, Tree.firsts, List.range_eq_range', List.range_eq_range', ← List.map_append,
      ← List.range'_append_1, Nat.zero_add]
  rw [hsplit, childRefsOf, List.flatMap_append, List.count_append] at honce
  refine (Nat.le_add_right _ _).trans (honce.le.trans ?_)
  split <;> omega

theorem TreeInv.grown (h : TreeInv t) {k : Nat} (hk : k ≤ t.cnt.toNat) : ∃ roots, Grown t k roots := by
  induction k with
  | zero => exact ⟨[], grown_zero t⟩
  | succ k ih =>
    obtain ⟨roots, hgrown⟩ := ih (Nat.le_of_succ_le hk)
    cases hkind : (recordAt t k).kind with
    | leaf => exact ⟨_, hgrown.add_leaf hk hkind⟩
    | internal =>
      have hbelow := h.childrenBelow k hk
      obtain ⟨roots', hgrown⟩ := hgrown.add_internal hk hkind hbelow
        fun c hc => h.count_childRefs_le hk ((hbelow c hc).trans hk)
      exact ⟨_, hgrown⟩

/-- At the end ROOT alone is not owned. -/
theorem Grown.eq_root (h : TreeInv t) {roots : List NodeIx} (hgrown : Grown t t.cnt.toNat roots) : roots = [t.root] := by
  refine List.perm_singleton.1 (List.perm_iff_count.2 fun i => ?_)
  have hroots := hgrown.once i
  have hlast := h.rootLast
  rw [← childRefs_eq] at hroots
  have hcons : [t.root].count i = if i.toNat = t.root.toNat then 1 else 0 := by
    by_cases hi : i = t.root
    · rw [hi, List.count_singleton_self, if_pos rfl]
    · rw [List.count_singleton, if_neg (by simpa using Ne.symm hi), if_neg (mt BitVec.eq_of_toNat_eq hi)]
  rw [hcons]
  by_cases hi : i.toNat < t.cnt.toNat
  · have honce := h.ownedOnce i.toNat hi
    rw [BitVec.ofNat_toNat, BitVec.setWidth_eq] at honce
    rw [if_pos hi] at hroots
    split at honce <;> simp_all
  · rw [if_neg hi] at hroots
    rw [if_neg (by omega)]
    omega

theorem mem_realLeaves {n : Node} : n ∈ t.realLeaves ↔ n ∈ t.records ∧ n.kind = .leaf ∧ n.filler = false := by
  simp [Tree.realLeaves]

/-- The symbols among the leaves are those of the real ones. -/
theorem some_mem_labelsOf {x : Byte} : some x ∈ labelsOf t.records ↔ x ∈ t.realLeaves.map Node.sym := by
  simp only [labelsOf, List.mem_map, List.mem_filter, beq_iff_eq, mem_realLeaves, Node.label]
  constructor
  · rintro ⟨n, ⟨hn, hk⟩, hx⟩
    cases hf : n.filler <;> simp_all
    exact ⟨n, ⟨hn, hk, hf⟩, hx⟩
  · rintro ⟨n, ⟨hn, hk, hf⟩, rfl⟩
    exact ⟨n, ⟨hn, hk⟩, by rw [hf]; rfl⟩

theorem mem_records {n : Node} : n ∈ t.records ↔ ∃ i < t.cnt.toNat, recordAt t i = n := by
  simp [Tree.records]

/-- No two leaves are alike: the real ones carry distinct symbols, and there is one filler at most. -/
theorem TreeInv.labels_nodup (h : TreeInv t) : (labelsOf t.records).Nodup := by
  obtain hnone | ⟨hcnt, ⟨hk0, hf0⟩, ⟨hk1, hf1, -⟩, hroot⟩ := h.fillerSingle
  · have hlabels : labelsOf t.records = (t.realLeaves.map Node.sym).map some := by
      have hreal : t.realLeaves = t.records.filter fun n => n.kind == .leaf := by
        refine List.filter_congr fun n hn => ?_
        obtain ⟨i, hi, rfl⟩ := mem_records.1 hn
        rw [hnone i hi, Bool.not_false, Bool.and_true]
      rw [labelsOf, hreal, List.map_map]
      refine List.map_congr_left fun n hn => ?_
      obtain ⟨i, hi, rfl⟩ := mem_records.1 (List.mem_of_mem_filter hn)
      rw [Node.label, hnone i hi]
      rfl
    rw [hlabels]
    exact h.symsOnce.map (Option.some_injective _)
  · have hk2 : (recordAt t 2).kind = .internal := by
      have hlast := h.rootLast
      have hint := h.rootInternal
      rw [hcnt] at hlast
      rwa [show t.root.toNat = 2 from Nat.succ.inj hlast] at hint
    have hrec : t.records = [recordAt t 0, recordAt t 1, recordAt t 2] := by rw [Tree.records, hcnt]; rfl
    have hlabels : labelsOf t.records = [some (recordAt t 0).sym, none] := by
      simp [labelsOf, hrec, hk0, hk1, hk2, Node.label, hf0, hf1]
    rw [hlabels]
    simp

/-- A tree of 10_state.md R27 is a shape of distinct leaves, at most 256, whose symbols are those of the real leaves. -/
theorem TreeInv.exists_shape (h : TreeInv t) :
    ∃ T : Shape, T.Fits ∧ Shows t T t.root ∧ ∀ x, some x ∈ T.leaves ↔ x ∈ t.realLeaves.map Node.sym := by
  obtain ⟨roots, hgrown⟩ := h.grown (le_refl _)
  obtain rfl := hgrown.eq_root h
  obtain ⟨T, hT, hleaves⟩ := hgrown.forest.of_singleton
  rw [value_entryAt] at hT
  have hcount := hgrown.count
  have hcnt := t.cnt.isLt
  have hlen := hleaves.length_eq
  rw [List.length_singleton] at hcount
  refine ⟨T, ⟨hleaves.nodup_iff.2 h.labels_nodup, ?_, by omega⟩, hT, fun x => hleaves.mem_iff.trans some_mem_labelsOf⟩
  cases T with
  | leaf o =>
    have hleaf := hT.2.1
    rw [h.rootInternal] at hleaf
    cases hleaf
  | node l r =>
    have hl := l.leaves_length_pos
    have hr := r.leaves_length_pos
    rw [Shape.leaves, List.length_append]
    omega

end

end Sys2Proof.Machine
end

section
/-! CG_GENERATE on a tree of 10_state.md R27 (43_code_generator.md R105 to R108). -/
namespace Sys2Proof.Machine

theorem exec_cgGenerate_of_shows {T : Shape} {s : State} (hT : T.Fits) (hvalid : s.tree.valid = true)
    (h : Shows s.tree T s.tree.root) :
    exec .cgGenerate s = .next (ended (s.setCodes { ct := T.codes, valid := true }) statusOk) :=
  issue_of_ok (cgGenerate_of_shows (s := s.setSeqStep 0#4) hT hvalid h)

theorem Shape.Fits.bits_above {T : Shape} (hT : T.Fits) (x : Byte) {i : Nat} (h : (ctAt T.codes x).len.toNat ≤ i) :
    (ctAt T.codes x).bits.getLsbD i = false := by
  by_cases hx : some x ∈ T.leaves
  · obtain ⟨p, hp⟩ := Shape.exists_at hx
    have hlt := hT.path_length_lt hp
    rw [hT.ctAt_codes hp, pathCode_len hlt] at h
    rw [hT.ctAt_codes hp]
    obtain hi | hi := Nat.lt_or_ge i 256
    · exact (getLsbD_pathBits p hi).trans (by rw [List.getD_eq_getElem?_getD, List.getElem?_eq_none h]; rfl)
    · exact BitVec.getLsbD_of_ge _ _ hi
  · rw [Shape.codes, Shape.ctAt_putCodes_of_not_mem hx, ctAt_ctEmpty]
    exact BitVec.getLsbD_zero

theorem Shape.Fits.valid_iff {T : Shape} (hT : T.Fits) (x : Byte) :
    (ctAt T.codes x).valid = true ↔ some x ∈ T.leaves :=
  ⟨fun h => by obtain ⟨p, hp, -⟩ := hT.exists_path h; exact hp.mem, fun h => (hT.codes_of_mem h).1⟩

/-- Settles O22: the tree is a shape, and the codes of a shape are the paths to its leaves. -/
theorem cgGeneratePrefixFree : Obligations.CgGeneratePrefixFree := by
  intro s hvalid htree
  obtain ⟨T, hT, hshows, hleaves⟩ := htree.exists_shape
  obtain ⟨hlen, hpre⟩ := codesOk_iff.1 hT.codesOk
  refine ⟨_, exec_cgGenerate_of_shows hT hvalid hshows, fun x => (hT.valid_iff x).trans (hleaves x), fun x hx => ?_,
    fun x _ => hT.bits_above x, fun x y hxy hx hy hp => ?_⟩
  · have := codesHaveLength_iff.1 hlen x hx
    bv_omega
  · exact codesPrefixFree_iff.1 hpre x hx y hxy hy (isPrefix_iff.2 hp)

/-- The path to a leaf of a shape leads to its record in the arena. -/
theorem followPath_of_shows {t : Tree} {T : Shape} {i : NodeIx} {p : List Bool} {o : Option Byte} (h : Shows t T i)
    (hp : T.At p o) : ∃ j, followPath t i p = some j ∧ Shows t (.leaf o) j := by
  induction p generalizing T i with
  | nil =>
    cases hp
    exact ⟨i, rfl, h⟩
  | cons b p ih =>
    obtain ⟨l, r, rfl, hrest⟩ := hp.of_cons
    have hchild := h.childAt b
    rw [followPath, h.2.1]
    cases b <;> exact ih hchild hrest

/-- Settles O23: a code of a shape is the path to its leaf. -/
theorem cgCodeIsPath : Obligations.CgCodeIsPath := by
  intro s t hvalid htree hexec x hx
  obtain ⟨T, hT, hshows, -⟩ := htree.exists_shape
  rw [exec_cgGenerate_of_shows hT hvalid hshows] at hexec
  cases hexec
  obtain ⟨j, hj, -, hkind, hfiller, hsym⟩ := followPath_of_shows hshows (hT.codes_of_mem ((hT.valid_iff x).1 hx)).2
  exact ⟨j, hj, hkind, hfiller, hsym x rfl⟩

/-! ### The single-symbol tree -/

/-- One code of a length above 0 passes the check. -/
theorem codesOk_ctPut_ctEmpty (x : Byte) {c : Code} (hc : c.len ≠ 0#8) : codesOk (ctPut ctEmpty x c) = true := by
  have honly (y : Byte) (hy : (ctAt (ctPut ctEmpty x c) y).valid = true) : y = x := by
    by_contra hne
    rw [ctAt_ctPut_ne _ _ hne, ctAt_ctEmpty] at hy
    cases hy
  refine codesOk_iff.2 ⟨codesHaveLength_iff.2 fun y hy => ?_, codesPrefixFree_iff.2 fun y hy z hyz hz => ?_⟩
  · rw [honly y hy, ctAt_ctPut_self]
    exact hc
  · exact absurd ((honly y hy).trans (honly z hz).symm) hyz

theorem cgGenerate_of_single {s : State} {nd l r : Node} {x : Byte} {c : Code} (hvalid : s.tree.valid = true)
    (hroot : nodeAt s.tree.node s.tree.root = some nd) (hl : nodeAt s.tree.node nd.left = some l)
    (hr : nodeAt s.tree.node nd.right = some r) (hsingle : isSingle l r = true) (hassign : assignSingle l r = setCode x c)
    (hc : c.len ≠ 0#8) : cgGenerate s = .ok () (s.setCodes { ct := ctPut ctEmpty x c, valid := true }) := by
  have hcodes : assignCodes s.tree.root l r (s.setCodes { ct := ctEmpty, valid := false }) =
      .ok () (s.setCodes { ct := ctPut ctEmpty x c, valid := false }) := by
    rw [assignCodes, if_pos hsingle, hassign]
    rfl
  have hread {i : NodeIx} {n : Node} (h : nodeAt s.tree.node i = some n) :
      readNode i (s.setCodes { ct := ctEmpty, valid := false }) =
        .ok n (s.setCodes { ct := ctEmpty, valid := false }) := readNode_of_nodeAt h
  rw [cgGenerate, Cmd.run_bind_ok (need_of_set hvalid), Cmd.run_bind_ok (Cmd.run_update _ _),
    Cmd.run_bind_ok (Cmd.run_getState _), State.setCodes_tree, Cmd.run_bind_ok (hread hroot),
    Cmd.run_bind_ok (hread hl), Cmd.run_bind_ok (hread hr), Cmd.run_bind_ok hcodes,
    Cmd.run_bind_ok (checkCodes_of_ok (codesOk_ctPut_ctEmpty x hc))]
  rfl

theorem ctAt_ctPut (ct : Vector Code 256) (x y : Byte) (c : Code) :
    ctAt (ctPut ct x c) y = if y = x then c else ctAt ct y := by
  split
  · subst y
    exact ctAt_ctPut_self ..
  · exact ctAt_ctPut_ne _ _ ‹_›

/-- Settles O24: one of the two leaves is the filler, and the other gets the bit of its side. -/
theorem cgSingleSymbol : Obligations.CgSingleSymbol := by
  intro s nd l r hvalid hroot hl hr hkl hkr hne
  have hexec {x : Byte} {c : Code} (hassign : assignSingle l r = setCode x c) (hc : c.len ≠ 0#8) :
      exec .cgGenerate s = .next (ended (s.setCodes { ct := ctPut ctEmpty x c, valid := true }) statusOk) := by
    refine issue_of_ok (cgGenerate_of_single (s := s.setSeqStep 0#4) hvalid hroot hl hr ?_ hassign hc)
    rw [isSingle, hkl, hkr]
    cases hfl : l.filler <;> cases hfr : r.filler <;> simp_all
  cases hfl : l.filler with
  | false =>
    have hfr : r.filler = true := by simpa [hfl] using hne
    refine ⟨_, hexec (x := l.sym) (c := { valid := true, len := 1#8, bits := 0#256 }) ?_ (by decide), fun x => ?_⟩
    · rw [assignSingle, hfl, hfr]
      rfl
    · rw [ctAt_ctPut, ctAt_ctEmpty, hfr]
      simp only [true_and, Bool.false_eq_true, false_and, if_false]
      rfl
  | true =>
    have hfr : r.filler = false := by simpa [hfl] using hne
    refine ⟨_, hexec (x := r.sym) (c := { valid := true, len := 1#8, bits := 1#256 }) ?_ (by decide), fun x => ?_⟩
    · rw [assignSingle, hfl, hfr]
      rfl
    · rw [ctAt_ctPut, ctAt_ctEmpty, hfr]
      simp only [true_and, Bool.false_eq_true, false_and, if_false]
      rfl

end Sys2Proof.Machine
end

section
/-! BuildGeneral record by record (42_tree_builder.md R97 to R100): the records made so far, the queue, which holds the records
that none of them owns, and the sum of the frequencies in it. -/
namespace Sys2Proof.Machine

/-! ### A record more -/

/-- Each record below NODE_CNT is there. -/
theorem getElem?_add (t : Tree) (n : Node) (h : t.cnt.toNat < 511) (j : Nat) :
    (t.add n).node[j]? = if j = t.cnt.toNat then some n else t.node[j]? := by
  rw [Tree.add, nodePut, Vector.getElem?_setIfInBounds]
  simp only [eq_comm, h, if_true]

section
variable {node node' : Vector Node 511} {k i : Nat}

theorem unowned_congr (h : ∀ j < k, node[j]? = node'[j]?) : Unowned node k i ↔ Unowned node' k i := by
  have hrec (j : Nat) (nd : Node) : (j < k → node[j]? = some nd → nd.left.toNat ≠ i ∧ nd.right.toNat ≠ i) ↔
      (j < k → node'[j]? = some nd → nd.left.toNat ≠ i ∧ nd.right.toNat ≠ i) :=
    imp_congr_right fun hj => by rw [h j hj]
  exact and_congr_right fun _ => forall_congr' fun j => forall_congr' fun nd => hrec j nd

theorem entryOf_congr (h : node[i]? = node'[i]?) : entryOf node i = entryOf node' i := by rw [entryOf, entryOf, h]

/-- What a record combines depends on the records before it. -/
theorem Combines.congr {env : Env} {nd : Node} (h : Combines env node k nd) (hrec : ∀ j < k, node[j]? = node'[j]?) :
    Combines env node' k nd := by
  have hentry {i : Nat} (hi : Unowned node k i) : entryOf node i = entryOf node' i := entryOf_congr (hrec i hi.1)
  refine ⟨(unowned_congr hrec).1 h.leftUnowned, (unowned_congr hrec).1 h.rightUnowned, h.apart, fun i hi hl => ?_,
    fun i hi hl hr => ?_, ?_⟩
  · have hi := (unowned_congr hrec).2 hi
    rw [← hentry h.leftUnowned, ← hentry hi]
    exact h.leftLeast i hi hl
  · have hi := (unowned_congr hrec).2 hi
    rw [← hentry h.rightUnowned, ← hentry hi]
    exact h.rightLeast i hi hl hr
  · rw [← hentry h.leftUnowned, ← hentry h.rightUnowned]
    exact h.freqSum

end

/-- Record j is the leaf of symbol j, or combines two records before it. -/
def GeneralRecord (env : Env) (ft : Vector FtEntry 256) (xs : List Byte) (node : Vector Node 511) (j : Nat) (nd : Node) :
    Prop :=
  (∃ x, xs[j]? = some x ∧ nd = leafNode x (ftAt ft x).count) ∨
    xs.length ≤ j ∧ nd.kind = .internal ∧ nd.filler = false ∧ nd.sym = 0#8 ∧ Combines env node j nd

theorem GeneralRecord.congr {env : Env} {ft : Vector FtEntry 256} {xs : List Byte} {node node' : Vector Node 511} {j : Nat}
    {nd : Node} (h : GeneralRecord env ft xs node j nd) (hrec : ∀ i < j, node[i]? = node'[i]?) :
    GeneralRecord env ft xs node' j nd :=
  h.imp_right fun ⟨hj, hk, hf, hs, hc⟩ => ⟨hj, hk, hf, hs, hc.congr hrec⟩

/-- It owns no record at its own index or above. -/
theorem GeneralRecord.owns_below {env : Env} {ft : Vector FtEntry 256} {xs : List Byte} {node : Vector Node 511} {j : Nat}
    {nd : Node} (h : GeneralRecord env ft xs node j nd) {i : Nat} (hi : j ≤ i) (hlt : i < 511) :
    nd.left.toNat ≠ i ∧ nd.right.toNat ≠ i := by
  obtain ⟨x, -, rfl⟩ | ⟨-, -, -, -, hc⟩ := h
  · have hnull : Config.null.toNat ≠ i := by
      rw [show Config.null.toNat = 511 from rfl]
      omega
    exact ⟨hnull, hnull⟩
  · have hl := hc.leftUnowned.1
    have hr := hc.rightUnowned.1
    omega

/-! ### The arena and the queue -/

/-- The sum of the priorities in the queue. -/
def prioSum (es : List PqEntry) : Nat := (es.map fun e => e.prio.toNat).sum

/-- The sum of the counts of these symbols. -/
def countSum (ft : Vector FtEntry 256) (xs : List Byte) : Nat := (xs.map fun x => (ftAt ft x).count.toNat).sum

theorem countSum_lt {ft : Vector FtEntry 256} {xs : List Byte} (h : xs.length ≤ 256) : countSum ft xs < 2 ^ 40 := by
  have hle : countSum ft xs ≤ (xs.map fun x => (ftAt ft x).count.toNat).length • (2 ^ 32 - 1) := by
    refine List.sum_le_card_nsmul _ _ fun n hn => ?_
    obtain ⟨x, -, rfl⟩ := List.mem_map.1 hn
    exact Nat.le_sub_one_of_lt (ftAt ft x).count.isLt
  rw [List.length_map, smul_eq_mul] at hle
  have hmul : xs.length * (2 ^ 32 - 1) ≤ 256 * (2 ^ 32 - 1) := Nat.mul_le_mul_right _ h
  omega

/-- A state in the middle of BuildGeneral of these symbols, which started at s₀. -/
structure Arena (s₀ : State) (xs : List Byte) (s : State) : Prop where
  frame : s = (s₀.setTree s.tree).setQueue s.queue
  done : ∀ j < s.tree.cnt.toNat, ∃ nd, s.tree.node[j]? = some nd ∧ GeneralRecord s₀.env s₀.ft xs s.tree.node j nd
  above : ∀ j, s.tree.cnt.toNat ≤ j → s.tree.node[j]? = s₀.tree.node[j]?
  queued : ∀ e, e ∈ s.queue.entries ↔ ∃ i, Unowned s.tree.node s.tree.cnt.toNat i ∧ entryOf s.tree.node i = e
  nodup : s.queue.entries.Nodup
  seq : s.queue.seq = s.tree.cnt.toNat
  total : prioSum s.queue.entries = countSum s₀.ft (xs.take s.tree.cnt.toNat)

section
variable {s₀ s : State} {xs : List Byte}

theorem Arena.env_eq (h : Arena s₀ xs s) : s.env = s₀.env := by rw [h.frame]; rfl

theorem Arena.ft_eq (h : Arena s₀ xs s) : s.ft = s₀.ft := by rw [h.frame]; rfl

/-- An entry is that of the record it names. -/
theorem Arena.entry_eq (h : Arena s₀ xs s) {e : PqEntry} (he : e ∈ s.queue.entries) :
    Unowned s.tree.node s.tree.cnt.toNat e.seq ∧ entryOf s.tree.node e.seq = e ∧
      (e.value.setWidth 9).toNat = e.seq := by
  obtain ⟨i, hi, rfl⟩ := (h.queued e).1 he
  have hlt := hi.1
  have hcnt := s.tree.cnt.isLt
  refine ⟨hi, rfl, ?_⟩
  show (BitVec.setWidth 9 (BitVec.ofNat 16 i)).toNat = i
  rw [BitVec.toNat_setWidth, BitVec.toNat_ofNat]
  omega

/-- The indices no record owns after one more: those it does not own, and its own. -/
theorem Arena.unowned_add (h : Arena s₀ xs s) (hcnt : s.tree.cnt.toNat < 511) {n : Node}
    (hn : GeneralRecord s₀.env s₀.ft xs s.tree.node s.tree.cnt.toNat n) (i : Nat) :
    Unowned (s.tree.add n).node (s.tree.cnt.toNat + 1) i ↔
      Unowned s.tree.node s.tree.cnt.toNat i ∧ n.left.toNat ≠ i ∧ n.right.toNat ≠ i ∨ i = s.tree.cnt.toNat := by
  constructor
  · intro ⟨hlt, hrec⟩
    obtain hi | hi := Nat.lt_succ_iff_lt_or_eq.1 hlt
    · refine .inl ⟨⟨hi, fun j nd hj hnd => hrec j nd (Nat.lt_succ_of_lt hj) ?_⟩, hrec s.tree.cnt.toNat n
        (Nat.lt_succ_self _) ?_⟩
      · rw [getElem?_add _ _ hcnt, if_neg hj.ne, hnd]
      · rw [getElem?_add _ _ hcnt, if_pos rfl]
    · exact .inr hi
  · rintro (⟨⟨hi, hrec⟩, hown⟩ | rfl)
    · refine ⟨Nat.lt_succ_of_lt hi, fun j nd hj hnd => ?_⟩
      rw [getElem?_add _ _ hcnt] at hnd
      obtain hj | rfl := Nat.lt_succ_iff_lt_or_eq.1 hj
      · exact hrec j nd hj (by rwa [if_neg hj.ne] at hnd)
      · rw [if_pos rfl] at hnd
        obtain rfl := Option.some.inj hnd
        exact hown
    · refine ⟨Nat.lt_succ_self _, fun j nd hj hnd => ?_⟩
      rw [getElem?_add _ _ hcnt] at hnd
      obtain hj | rfl := Nat.lt_succ_iff_lt_or_eq.1 hj
      · rw [if_neg hj.ne] at hnd
        obtain ⟨nd', hnd', hgen⟩ := h.done j hj
        obtain rfl := Option.some.inj (hnd.symm.trans hnd')
        exact hgen.owns_below hj.le hcnt
      · rw [if_pos rfl] at hnd
        obtain rfl := Option.some.inj hnd
        exact hn.owns_below (le_refl _) hcnt

/-- A record that owns the records of the entries taken out. -/
theorem Arena.add (h : Arena s₀ xs s) (hcnt : s.tree.cnt.toNat < 511) {n : Node} {es : List PqEntry}
    (hn : GeneralRecord s₀.env s₀.ft xs s.tree.node s.tree.cnt.toNat n) (hnodup : es.Nodup)
    (hes : ∀ e, e ∈ es ↔ e ∈ s.queue.entries ∧ n.left.toNat ≠ e.seq ∧ n.right.toNat ≠ e.seq)
    (htotal : prioSum es + n.freq.toNat = countSum s₀.ft (xs.take (s.tree.cnt.toNat + 1))) :
    Completes (addAndQueue n) (s.setQueue { s.queue with entries := es }) fun _ t =>
      Arena s₀ xs t ∧ t.tree.cnt.toNat = s.tree.cnt.toNat + 1 ∧ t.queue.entries.length = es.length + 1 := by
  have hcnt' : (s.tree.cnt + 1#9).toNat = s.tree.cnt.toNat + 1 := by
    rw [BitVec.toNat_add, BitVec.toNat_ofNat]
    omega
  have hrec {j : Nat} (hj : j < s.tree.cnt.toNat) : s.tree.node[j]? = (s.tree.add n).node[j]? := by
    rw [getElem?_add _ _ hcnt, if_neg hj.ne]
  have hself : (s.tree.add n).node[s.tree.cnt.toNat]? = some n := by rw [getElem?_add _ _ hcnt, if_pos rfl]
  have hlast : ({ value := s.tree.cnt.setWidth 16, prio := n.freq, seq := s.queue.seq } : PqEntry) =
      entryOf (s.tree.add n).node s.tree.cnt.toNat := by
    rw [entryOf, hself, h.seq, BitVec.ofNat_toNat]
    rfl
  refine completes_of_ok (addAndQueue_eq n _) ⟨⟨?_, fun j hj => ?_, fun j hj => ?_, fun e => ?_, ?_, ?_, ?_⟩, hcnt',
    List.length_append⟩
  · rw [h.frame]
    rfl
  · show ∃ nd, (s.tree.add n).node[j]? = some nd ∧ GeneralRecord _ _ _ (s.tree.add n).node j nd
    have hj : j < (s.tree.cnt + 1#9).toNat := hj
    obtain hj | rfl := Nat.lt_succ_iff_lt_or_eq.1 (hcnt' ▸ hj)
    · obtain ⟨nd, hnd, hgen⟩ := h.done j hj
      exact ⟨nd, (hrec hj).symm.trans hnd, hgen.congr fun i hi => hrec (hi.trans hj)⟩
    · exact ⟨n, hself, hn.congr fun i hi => hrec hi⟩
  · show (s.tree.add n).node[j]? = _
    have hj : (s.tree.cnt + 1#9).toNat ≤ j := hj
    rw [getElem?_add _ _ hcnt, if_neg (by omega)]
    exact h.above j (by omega)
  · show e ∈ es ++ [_] ↔ ∃ i, Unowned (s.tree.add n).node (s.tree.cnt + 1#9).toNat i ∧ entryOf (s.tree.add n).node i = e
    simp only [hcnt', h.unowned_add hcnt hn, List.mem_append, List.mem_singleton, hes, State.setQueue_tree,
      State.setQueue_queue, hlast]
    constructor
    · rintro (⟨he, hown⟩ | rfl)
      · obtain ⟨hun, hentry, -⟩ := h.entry_eq he
        exact ⟨e.seq, .inl ⟨hun, hown⟩, by rw [← entryOf_congr (hrec hun.1), hentry]⟩
      · exact ⟨_, .inr rfl, rfl⟩
    · rintro ⟨i, ⟨hun, hown⟩ | rfl, rfl⟩
      · rw [← entryOf_congr (hrec hun.1)]
        exact .inl ⟨(h.queued _).2 ⟨i, hun, rfl⟩, hown⟩
      · exact .inr rfl
  · show (es ++ [_]).Nodup
    refine List.nodup_append.2 ⟨hnodup, List.nodup_singleton _, fun e he f hf => ?_⟩
    rintro rfl
    have hlt := (h.entry_eq ((hes e).1 he).1).1.1
    rw [List.mem_singleton.1 hf] at hlt
    exact absurd h.seq hlt.ne
  · show s.queue.seq + 1 = (s.tree.cnt + 1#9).toNat
    rw [h.seq, hcnt']
  · show prioSum (es ++ [_]) = countSum s₀.ft (xs.take (s.tree.cnt + 1#9).toNat)
    rw [hcnt', ← htotal, prioSum, List.map_append, List.sum_append]
    rfl

/-- The leaves (42_tree_builder.md R97). -/
theorem arena_addLeaves {done rest : List Byte} (h : Arena s₀ xs s) (hxs : xs = done ++ rest) (hlen : xs.length ≤ 256)
    (hcnt : s.tree.cnt.toNat = done.length) (hnew : s.queue.entries.length = done.length) :
    Completes (addLeaves rest) s fun _ t =>
      Arena s₀ xs t ∧ t.tree.cnt.toNat = xs.length ∧ t.queue.entries.length = xs.length := by
  induction rest generalizing s done with
  | nil =>
    rw [List.append_nil] at hxs
    subst hxs
    exact completes_of_ok (Cmd.run_pure () s) ⟨h, hcnt, hnew⟩
  | cons x rest ih =>
    have hlt : done.length < xs.length := by
      rw [hxs, List.length_append, List.length_cons]
      omega
    have hx : xs[done.length]? = some x := by rw [hxs]; simp
    have htake : xs.take (done.length + 1) = done ++ [x] := by rw [hxs]; simp [List.take_append]
    have hdone : xs.take done.length = done := by rw [hxs]; simp
    have hnull (e : PqEntry) (he : e ∈ s.queue.entries) : Config.null.toNat ≠ e.seq := by
      have hseq := (h.entry_eq he).1.1
      rw [show Config.null.toNat = 511 from rfl]
      omega
    have hadd := h.add (by omega) (n := leafNode x (ftAt s₀.ft x).count) (es := s.queue.entries)
      (.inl ⟨x, hcnt ▸ hx, rfl⟩) h.nodup
      (fun e => ⟨fun he => ⟨he, hnull e he, hnull e he⟩, fun he => he.1⟩) (by
        rw [h.total, hcnt, htake, hdone, countSum, countSum, List.map_append, List.sum_append]
        have hc := (ftAt s₀.ft x).count.isLt
        simp only [leafNode, BitVec.toNat_setWidth, List.map_cons, List.map_nil, List.sum_singleton]
        omega)
    rw [Completes, addLeaves_cons, h.ft_eq]
    refine completes_bind hadd fun _ t ⟨ht, hct, hlt⟩ => ih (done := done ++ [x]) ht (by rw [hxs]; simp) ?_ ?_
    · rw [hct, hcnt, List.length_append]
      rfl
    · rw [hlt, hnew, List.length_append]
      rfl

/-- One combination (42_tree_builder.md R97, R98). -/
theorem arena_combine (h : Arena s₀ xs s) (hlen : xs.length ≤ 256) (hdone : xs.length ≤ s.tree.cnt.toNat)
    (hcount : s.tree.cnt.toNat + s.queue.entries.length = 2 * xs.length) (htwo : 2 ≤ s.queue.entries.length) :
    Completes combine s fun _ t => Arena s₀ xs t ∧ t.tree.cnt.toNat = s.tree.cnt.toNat + 1 ∧
      t.queue.entries.length + 1 = s.queue.entries.length := by
  obtain ⟨a, ha⟩ := exists_minEntry (env := s.env)
    (List.ne_nil_of_length_pos (by omega : 0 < s.queue.entries.length))
  have hla := length_erase_minEntry ha
  obtain ⟨b, hb⟩ := exists_minEntry (env := s.env)
    (List.ne_nil_of_length_pos (by omega : 0 < (s.queue.entries.erase a).length))
  have hlb := length_erase_minEntry hb
  have hmema := mem_of_minEntry ha
  have hmemb := mem_of_minEntry hb
  have hab : b ≠ a := fun he => h.nodup.not_mem_erase (he ▸ hmemb)
  obtain ⟨huna, hentrya, hvala⟩ := h.entry_eq hmema
  obtain ⟨hunb, hentryb, hvalb⟩ := h.entry_eq (List.mem_of_mem_erase hmemb)
  have hseq {e f : PqEntry} (he : e ∈ s.queue.entries) (hf : f ∈ s.queue.entries) (hne : e ≠ f) : e.seq ≠ f.seq :=
    fun heq => hne (by rw [← (h.entry_eq he).2.1, heq, (h.entry_eq hf).2.1])
  have htake {k : Nat} (hk : xs.length ≤ k) : countSum s₀.ft (xs.take k) = countSum s₀.ft xs := by
    rw [List.take_of_length_le hk]
  have hsum : prioSum s.queue.entries =
      a.prio.toNat + (b.prio.toNat + prioSum ((s.queue.entries.erase a).erase b)) := by
    have hperm := (List.perm_cons_erase hmema).trans ((List.perm_cons_erase hmemb).cons a)
    exact (hperm.map fun e => e.prio.toNat).sum_eq
  have htotal := h.total
  have hbound := countSum_lt (ft := s₀.ft) hlen
  rw [htake hdone] at htotal
  have hfreq : (a.prio + b.prio).toNat = a.prio.toNat + b.prio.toNat := by
    rw [BitVec.toNat_add]
    omega
  rw [Completes, combine_eq ha hb]
  refine completes_mono (h.add (by omega) (.inr ⟨hdone, rfl, rfl, rfl, ?_⟩) ((h.nodup.erase a).erase b)
    (fun e => ?_) ?_) fun _ t ⟨ht, hct, hlt⟩ => ⟨ht, hct, by omega⟩
  · have hleft : (internalNode (a.prio + b.prio) (a.value.setWidth 9) (b.value.setWidth 9)).left.toNat = a.seq := hvala
    have hright : (internalNode (a.prio + b.prio) (a.value.setWidth 9) (b.value.setWidth 9)).right.toNat = b.seq := hvalb
    rw [h.env_eq] at ha hb
    have hmem {i : Nat} (hi : Unowned s.tree.node s.tree.cnt.toNat i) : entryOf s.tree.node i ∈ s.queue.entries :=
      (h.queued _).2 ⟨i, hi, rfl⟩
    refine ⟨hleft ▸ huna, hright ▸ hunb, fun he => ?_, fun i hi hia => ?_, fun i hi hia hib => ?_, ?_⟩
    · have hval := congrArg BitVec.toNat he
      rw [hleft, hright] at hval
      exact hseq (List.mem_of_mem_erase hmemb) hmema hab hval.symm
    · rw [hleft] at hia ⊢
      rw [hentrya]
      exact pqBefore_of_minEntry ha (hmem hi) fun he => hia (congrArg PqEntry.seq he)
    · rw [hleft] at hia
      rw [hright] at hib ⊢
      rw [hentryb]
      refine pqBefore_of_minEntry hb ((List.mem_erase_of_ne fun he => hia (congrArg PqEntry.seq he)).2 (hmem hi))
        fun he => hib (congrArg PqEntry.seq he)
    · rw [hleft, hright, hentrya, hentryb]
      rfl
  · show _ ↔ _ ∧ (a.value.setWidth 9).toNat ≠ e.seq ∧ (b.value.setWidth 9).toNat ≠ e.seq
    rw [hvala, hvalb, (h.nodup.erase a).mem_erase_iff, h.nodup.mem_erase_iff]
    constructor
    · rintro ⟨heb, hea, he⟩
      exact ⟨he, hseq hmema he hea.symm, hseq (List.mem_of_mem_erase hmemb) he heb.symm⟩
    · rintro ⟨he, hea, heb⟩
      exact ⟨fun h => heb (congrArg PqEntry.seq h.symm), fun h => hea (congrArg PqEntry.seq h.symm), he⟩
  · show _ + (a.prio + b.prio).toNat = _
    rw [htake (by omega), hfreq]
    omega

/-- The loop ends with one entry (42_tree_builder.md R97). -/
theorem arena_combineAll {k : Nat} (h : Arena s₀ xs s) (hlen : xs.length ≤ 256) (hdone : xs.length ≤ s.tree.cnt.toNat)
    (hcount : s.tree.cnt.toNat + s.queue.entries.length = 2 * xs.length) (hpos : 1 ≤ s.queue.entries.length)
    (hk : s.queue.entries.length ≤ k + 1) :
    Completes (combineAll k) s fun _ t => Arena s₀ xs t ∧ t.tree.cnt.toNat + 1 = 2 * xs.length ∧
      t.queue.entries.length = 1 := by
  induction k generalizing s with
  | zero => exact completes_of_ok (combineAll_of_lt (by omega)) ⟨h, by omega, by omega⟩
  | succ k ih =>
    by_cases htwo : 2 ≤ s.queue.entries.length
    · rw [Completes, combineAll_succ htwo]
      exact completes_bind (arena_combine h hlen hdone hcount htwo) fun _ t ⟨ht, hct, hlt⟩ =>
        ih ht (by omega) (by omega) (by omega) (by omega)
    · exact completes_of_ok (combineAll_of_lt (by omega)) ⟨h, by omega, by omega⟩

/-- The last record is the one entry left. -/
theorem Arena.last_entry (h : Arena s₀ xs s) (hpos : 0 < s.tree.cnt.toNat) {e : PqEntry}
    (he : s.queue.entries = [e]) : e = entryOf s.tree.node (s.tree.cnt.toNat - 1) := by
  have hcnt := s.tree.cnt.isLt
  have hmem : entryOf s.tree.node (s.tree.cnt.toNat - 1) ∈ s.queue.entries := by
    refine (h.queued _).2 ⟨_, ⟨by omega, fun j nd hj hnd => ?_⟩, rfl⟩
    obtain ⟨nd', hnd', hgen⟩ := h.done j hj
    obtain rfl := Option.some.inj (hnd.symm.trans hnd')
    exact hgen.owns_below (by omega) (by omega)
  rw [he, List.mem_singleton] at hmem
  exact hmem.symm

/-- What TB_BUILD of two symbols or more makes: the arena, whose records from 0 to 2n - 2 are these, and the sum of the
counts at the last. -/
structure GeneralTree (s₀ : State) (xs : List Byte) (t : Tree) : Prop where
  cnt : t.cnt.toNat + 1 = 2 * xs.length
  root : t.root.toNat + 1 = t.cnt.toNat
  done : ∀ j < t.cnt.toNat, ∃ nd, t.node[j]? = some nd ∧ GeneralRecord s₀.env s₀.ft xs t.node j nd
  above : ∀ j, t.cnt.toNat ≤ j → t.node[j]? = s₀.tree.node[j]?
  freq : (recordAt t t.root.toNat).freq.toNat = countSum s₀.ft xs

theorem arena_startBuild (s : State) : Arena s.startBuild xs s.startBuild where
  frame := rfl
  done _ hj := absurd hj (Nat.not_lt_zero _)
  above _ _ := rfl
  queued _ := ⟨fun he => absurd he List.not_mem_nil, fun ⟨_, hi, _⟩ => absurd hi.1 (Nat.not_lt_zero _)⟩
  nodup := List.nodup_nil
  seq := rfl
  total := rfl

theorem buildGeneral_arena {s : State} (htwo : 2 ≤ xs.length) (hlen : xs.length ≤ 256) :
    Completes (buildGeneral xs) s.startBuild fun _ t =>
      t = (s.startBuild.setTree t.tree).setQueue { entries := [], seq := t.tree.cnt.toNat } ∧
        GeneralTree s.startBuild xs t.tree := by
  refine completes_bind (arena_addLeaves (xs := xs) (done := []) (arena_startBuild s) rfl hlen rfl rfl) fun _ t ⟨ht, hct, hlt⟩ => ?_
  refine completes_bind_of_ok (Cmd.run_getState t) ?_
  refine completes_bind (arena_combineAll ht hlen (by omega) (by omega) (by omega) (by omega))
    fun _ v ⟨hv, hcv, hlv⟩ => ?_
  obtain ⟨e, he⟩ := List.length_eq_one_iff.1 hlv
  have hmin : minEntry v.env v.queue.entries = some e := by rw [he]; rfl
  have hval := (hv.entry_eq (he ▸ List.mem_singleton_self e)).2.2
  have hlast := hv.last_entry (by omega) he
  have hseq : e.seq = v.tree.cnt.toNat - 1 := by rw [hlast]; rfl
  have hextract : pqExtractMin v = .ok e (v.setQueue { entries := [], seq := v.tree.cnt.toNat }) := by
    have hempty : v.queue.entries.erase e = [] := by rw [he, List.erase_cons_head]
    rw [pqExtractMin_of_min hmin, hempty, ← hv.seq]
  refine completes_bind_of_ok hextract (completes_of_ok (setRoot_eq _ _) ⟨?_, hcv, ?_, hv.done, hv.above, ?_⟩)
  · rw [hv.frame]
    rfl
  · show (e.value.setWidth 9).toNat + 1 = v.tree.cnt.toNat
    omega
  · show (recordAt v.tree (e.value.setWidth 9).toNat).freq.toNat = _
    have htotal := hv.total
    rw [he, List.take_of_length_le (by omega)] at htotal
    rw [hval, hseq, ← htotal, hlast]
    rfl

end

end Sys2Proof.Machine
end

section
/-! TB_BUILD makes a tree of 10_state.md R27 (42_tree_builder.md R95 to R100). -/
namespace Sys2Proof.Machine

/-! ### Two symbols or more -/

theorem buildFrom_of_two_le {xs : List Byte} (h : 2 ≤ xs.length) : buildFrom xs = buildGeneral xs := by
  match xs, h with
  | _ :: _ :: _, _ => rfl

/-- The state that TB_BUILD leaves: only this tree, the flags of codes and decoder, and the empty queue are new. -/
def State.built (s : State) (t : Tree) (seq : Nat) : State :=
  (s.startBuild.setTree t).setQueue { entries := [], seq := seq }

theorem tbBuild_general {s : State} (h : 2 ≤ ftN s.ft) :
    ∃ t : Tree, tbBuild s = .ok () (s.built t t.cnt.toNat) ∧ t.valid = true ∧
      GeneralTree s.startBuild (presentSyms s.ft) t := by
  have hne : presentSyms s.ft ≠ [] := List.ne_nil_of_length_pos (by rw [ftN] at h; omega)
  obtain ⟨_, t, ht, hframe, htree⟩ := buildGeneral_arena (s := s) h (ftN_le s.ft)
  refine ⟨{ t.tree with valid := true }, ?_, rfl, ⟨htree.cnt, htree.root, htree.done, htree.above, htree.freq⟩⟩
  rw [tbBuild_of_present hne, buildFrom_of_two_le h, Cmd.run_bind_ok ht, hframe]
  rfl

/-- Settles O18: the records are those of the arena, and the queue ends empty. -/
theorem tbBuildGeneral : Obligations.TbBuildGeneral := by
  intro s h
  obtain ⟨t, ht, hvalid, htree⟩ := tbBuild_general (s := s.setSeqStep 0#4) h
  have hcnt := htree.cnt
  have hroot := htree.root
  have hdone := htree.done
  have habove := htree.above
  have hn : ftN s.ft = (presentSyms (s.setSeqStep 0#4).ft).length := rfl
  rw [hn]
  generalize hxs : presentSyms (s.setSeqStep 0#4).ft = xs at *
  have hexact : t =
      { node := t.node, cnt := .ofNat 9 (2 * xs.length - 1), root := .ofNat 9 (2 * xs.length - 2), valid := true } := by
    rw [← hvalid, show 2 * xs.length - 1 = t.cnt.toNat by omega, show 2 * xs.length - 2 = t.root.toNat by omega,
      BitVec.ofNat_toNat, BitVec.ofNat_toNat, BitVec.setWidth_eq, BitVec.setWidth_eq]
  refine ⟨t.node, ?_, fun k x hx => ?_, fun k hk hlt => ?_, fun k hk => habove k (by omega)⟩
  · rw [← hexact, show 2 * xs.length - 1 = t.cnt.toNat by omega]
    exact issue_of_ok ht
  · rw [show presentSyms s.ft = xs from hxs] at hx
    have hk : k < xs.length := (List.getElem?_eq_some_iff.1 hx).1
    obtain ⟨nd, hnd, ⟨y, hy, rfl⟩ | ⟨hle, -⟩⟩ := hdone k (by omega)
    · obtain rfl := Option.some.inj (hx.symm.trans hy)
      exact hnd
    · exact absurd hk (Nat.not_lt.2 hle)
  · obtain ⟨nd, hnd, ⟨y, hy, -⟩ | ⟨-, hkind, hfiller, hsym, hcomb⟩⟩ := hdone k (by omega)
    · exact absurd (List.getElem?_eq_some_iff.1 hy).1 (Nat.not_lt.2 hk)
    · exact ⟨nd, hnd, hkind, hfiller, hsym, hcomb.leftUnowned.1, hcomb.rightUnowned.1, hcomb⟩

section
variable {s₀ : State} {xs : List Byte} {t : Tree}

theorem GeneralTree.record (h : GeneralTree s₀ xs t) {i : Nat} (hi : i < t.cnt.toNat) :
    GeneralRecord s₀.env s₀.ft xs t.node i (recordAt t i) := by
  obtain ⟨nd, hnd, hgen⟩ := h.done i hi
  rwa [recordAt, hnd]

theorem GeneralTree.leaf (h : GeneralTree s₀ xs t) {i : Nat} (hi : i < t.cnt.toNat) (hlt : i < xs.length) :
    recordAt t i = leafNode xs[i] (ftAt s₀.ft xs[i]).count := by
  obtain ⟨x, hx, heq⟩ | ⟨hle, -⟩ := h.record hi
  · rw [heq, ← (List.getElem?_eq_some_iff.1 hx).2]
  · exact absurd hlt (Nat.not_lt.2 hle)

theorem GeneralTree.internal (h : GeneralTree s₀ xs t) {i : Nat} (hi : i < t.cnt.toNat) (hle : xs.length ≤ i) :
    (recordAt t i).kind = .internal ∧ (recordAt t i).filler = false ∧ Combines s₀.env t.node i (recordAt t i) := by
  obtain ⟨x, hx, -⟩ | ⟨-, hkind, hfiller, -, hcomb⟩ := h.record hi
  · exact absurd (List.getElem?_eq_some_iff.1 hx).1 (Nat.not_lt.2 hle)
  · exact ⟨hkind, hfiller, hcomb⟩

/-- A record that owns another is Internal, and owns it alone of the records before it. -/
theorem GeneralTree.unowned_of_child (h : GeneralTree s₀ xs t) {i : Nat} (hi : i < t.cnt.toNat) {c : NodeIx}
    (hc : c ∈ (recordAt t i).children) : Unowned t.node i c.toNat := by
  obtain hlt | hle := Nat.lt_or_ge i xs.length
  · rw [h.leaf hi hlt, Node.children_of_leaf rfl] at hc
    cases hc
  · obtain ⟨hkind, -, hcomb⟩ := h.internal hi hle
    rw [Node.children_of_internal hkind] at hc
    obtain rfl | hc := List.mem_cons.1 hc
    · exact hcomb.leftUnowned
    · rw [List.mem_singleton.1 hc]
      exact hcomb.rightUnowned

/-- The leaves in the order of the symbols, then the Internal records. -/
theorem GeneralTree.records_eq (h : GeneralTree s₀ xs t) :
    ∃ rest, t.records = xs.map (fun x => leafNode x (ftAt s₀.ft x).count) ++ rest ∧
      (∀ n ∈ rest, n.kind = .internal) ∧ rest.length + 1 = xs.length := by
  have hcnt := h.cnt
  have hlen : t.records.length = t.cnt.toNat := by simp [Tree.records]
  have hget (i : Nat) (hi : i < t.records.length) : t.records[i] = recordAt t i := by simp [Tree.records]
  refine ⟨t.records.drop xs.length, ?_, fun n hn => ?_, by rw [List.length_drop]; omega⟩
  · have htake : t.records.take xs.length = xs.map fun x => leafNode x (ftAt s₀.ft x).count := by
      refine List.ext_getElem (by rw [List.length_take, List.length_map]; omega) fun i hi hlt => ?_
      rw [List.length_map] at hlt
      rw [List.getElem_take, List.getElem_map, hget, h.leaf (by omega) hlt]
    rw [← htake, List.take_append_drop]
  · obtain ⟨i, hi, rfl⟩ := List.mem_iff_getElem.1 hn
    rw [List.length_drop] at hi
    rw [List.getElem_drop, hget]
    exact (h.internal (by omega) (Nat.le_add_right _ _)).1

theorem GeneralTree.childRefs_nodup (h : GeneralTree s₀ xs t) : t.childRefs.Nodup := by
  refine List.nodup_flatMap.2 ⟨fun n hn => ?_, ?_⟩
  · obtain ⟨i, hi, rfl⟩ := mem_records.1 hn
    obtain hlt | hle := Nat.lt_or_ge i xs.length
    · rw [h.leaf hi hlt, Node.children_of_leaf rfl]
      exact List.nodup_nil
    · obtain ⟨hkind, -, hcomb⟩ := h.internal hi hle
      rw [Node.children_of_internal hkind]
      simpa using hcomb.apart
  · refine List.pairwise_map.2 (List.pairwise_lt_range.imp_of_mem fun {i j} hi hj hij c hci hcj => ?_)
    have hi := List.mem_range.1 hi
    have hj := List.mem_range.1 hj
    have hget : t.node[i]? = some (recordAt t i) := by
      obtain ⟨nd, hnd, -⟩ := h.done i hi
      rw [recordAt, hnd]
      rfl
    obtain ⟨hl, hr⟩ := (h.unowned_of_child hj hcj).2 i _ hij hget
    obtain hlt | hle := Nat.lt_or_ge i xs.length
    · rw [h.leaf hi hlt, Node.children_of_leaf rfl] at hci
      cases hci
    · rw [Node.children_of_internal (h.internal hi hle).1] at hci
      simp only [List.mem_cons, List.not_mem_nil, or_false] at hci
      obtain rfl | rfl := hci
      · exact hl rfl
      · exact hr rfl

theorem GeneralTree.length_childRefs (h : GeneralTree s₀ xs t) : t.childRefs.length + 1 = t.cnt.toNat := by
  obtain ⟨rest, hrec, hrest, hlen⟩ := h.records_eq
  have hcnt := h.cnt
  have hleaves : (xs.map fun x => leafNode x (ftAt s₀.ft x).count).flatMap Node.children = [] :=
    List.flatMap_eq_nil_iff.2 fun n hn => by
      obtain ⟨x, -, rfl⟩ := List.mem_map.1 hn
      exact Node.children_of_leaf rfl
  have hinternal : (rest.flatMap Node.children).length = 2 * rest.length := by
    rw [List.length_flatMap, List.map_congr_left (g := fun _ => 2) fun n hn => by
      rw [Node.children_of_internal (hrest n hn)]
      rfl]
    simp [Nat.mul_comm]
  rw [Tree.childRefs, hrec, List.flatMap_append, hleaves, List.nil_append, hinternal]
  omega

/-- Each index below ROOT is owned once, ROOT by none: as many distinct children as there are indices. -/
theorem GeneralTree.count_childRefs (h : GeneralTree s₀ xs t) {i : Nat} (hi : i < t.cnt.toNat) :
    t.childRefs.count (BitVec.ofNat 9 i) = if i = t.root.toNat then 0 else 1 := by
  have hroot := h.root
  have hlen := h.length_childRefs
  have hbelow (c : NodeIx) (hc : c ∈ t.childRefs) : c.toNat < t.root.toNat := by
    obtain ⟨n, hn, hc⟩ := List.mem_flatMap.1 hc
    obtain ⟨j, hj, rfl⟩ := mem_records.1 hn
    have hlt := (h.unowned_of_child hj hc).1
    omega
  have hperm : t.childRefs.Perm ((List.range t.root.toNat).map (BitVec.ofNat 9)) := by
    refine (List.Nodup.subperm h.childRefs_nodup fun c hc => ?_).perm_of_length_le
      (by rw [List.length_map, List.length_range]; omega)
    exact List.mem_map.2 ⟨c.toNat, List.mem_range.2 (hbelow c hc), by rw [BitVec.ofNat_toNat, BitVec.setWidth_eq]⟩
  have hix := toNat_ofNat_of_lt_cnt hi
  split
  · refine List.count_eq_zero.2 fun hc => ?_
    have := hbelow _ hc
    omega
  · exact List.count_eq_one_of_mem h.childRefs_nodup
      (hperm.mem_iff.2 (List.mem_map_of_mem (List.mem_range.2 (by omega))))

theorem GeneralTree.treeInv (h : GeneralTree s₀ xs t) (htwo : 2 ≤ xs.length) (hnodup : xs.Nodup) : TreeInv t where
  rootLast := h.root
  rootInternal := by
    have hcnt := h.cnt
    have hroot := h.root
    exact (h.internal (by omega) (by omega)).1
  ownedOnce _ hi := h.count_childRefs hi
  childrenBelow _ hi _ hc := (h.unowned_of_child hi hc).1
  freqSum i hi hkind := by
    obtain hlt | hle := Nat.lt_or_ge i xs.length
    · rw [h.leaf hi hlt] at hkind
      cases hkind
    · exact (h.internal hi hle).2.2.freqSum
  leafEnds i hi hkind := by
    obtain hlt | hle := Nat.lt_or_ge i xs.length
    · rw [h.leaf hi hlt]
      exact ⟨rfl, rfl⟩
    · rw [(h.internal hi hle).1] at hkind
      cases hkind
  symsOnce := by
    obtain ⟨rest, hrec, hrest, -⟩ := h.records_eq
    have hnone : rest.filter (fun n => n.kind == .leaf && !n.filler) = [] :=
      List.filter_eq_nil_iff.2 fun n hn => by rw [hrest n hn]; exact Bool.false_ne_true
    have hall : (xs.map fun x => leafNode x (ftAt s₀.ft x).count).filter (fun n => n.kind == .leaf && !n.filler) =
        xs.map fun x => leafNode x (ftAt s₀.ft x).count :=
      List.filter_eq_self.2 fun n hn => by
        obtain ⟨x, -, rfl⟩ := List.mem_map.1 hn
        rfl
    rw [Tree.realLeaves, hrec, List.filter_append, hnone, hall, List.append_nil, List.map_map]
    exact (List.map_id xs).symm ▸ hnodup
  fillerSingle := .inl fun i hi => by
    obtain hlt | hle := Nat.lt_or_ge i xs.length
    · rw [h.leaf hi hlt]
      rfl
    · exact (h.internal hi hle).2.1

end

/-! ### One symbol -/

/-- The tree of one symbol (42_tree_builder.md R96). -/
def singleTree (node : Vector Node 511) (leaf : Node) : Tree :=
  { node := singleArena node leaf, cnt := 3#9, root := 2#9, valid := true }

section
variable (node : Vector Node 511) (x : Byte) (c : Count)

theorem recordAt_singleTree {i : Nat} (h : i < 3) :
    recordAt (singleTree node (leafNode x c)) i =
      [leafNode x c, fillerNode, internalNode (c.setWidth 64) 0#9 1#9][i] := by
  match i, h with
  | 0, _ => exact recordAt_of_nodeAt (t := singleTree node (leafNode x c)) (nodeAt_singleArena_leaf node (leafNode x c))
  | 1, _ => exact recordAt_of_nodeAt (t := singleTree node (leafNode x c)) (nodeAt_singleArena_filler node (leafNode x c))
  | 2, _ => exact recordAt_of_nodeAt (t := singleTree node (leafNode x c)) (nodeAt_singleArena_root node (leafNode x c))

theorem records_singleTree : (singleTree node (leafNode x c)).records =
    [leafNode x c, fillerNode, internalNode (c.setWidth 64) 0#9 1#9] := by
  show [recordAt _ 0, recordAt _ 1, recordAt _ 2] = _
  rw [recordAt_singleTree _ _ _ (by decide), recordAt_singleTree _ _ _ (by decide),
    recordAt_singleTree _ _ _ (by decide)]
  rfl

theorem treeInv_singleTree : TreeInv (singleTree node (leafNode x c)) := by
  have h0 : recordAt (singleTree node (leafNode x c)) 0 = leafNode x c := recordAt_singleTree _ _ _ (by decide)
  have h1 : recordAt (singleTree node (leafNode x c)) 1 = fillerNode := recordAt_singleTree _ _ _ (by decide)
  have h2 : recordAt (singleTree node (leafNode x c)) 2 = internalNode (c.setWidth 64) 0#9 1#9 :=
    recordAt_singleTree _ _ _ (by decide)
  have hrefs : (singleTree node (leafNode x c)).childRefs = [0#9, 1#9] := by
    rw [Tree.childRefs, records_singleTree]
    rfl
  have hcases {P : Nat → Prop} (p0 : P 0) (p1 : P 1) (p2 : P 2) (i : Nat) (hi : i < 3) : P i := by
    match i, hi with
    | 0, _ => exact p0
    | 1, _ => exact p1
    | 2, _ => exact p2
  exact {
    rootLast := rfl
    rootInternal := congrArg Node.kind h2
    ownedOnce := by
      rw [hrefs]
      exact hcases rfl rfl rfl
    childrenBelow := by
      refine hcases ?_ ?_ ?_
      · rw [h0]; exact fun _ hd => absurd hd List.not_mem_nil
      · rw [h1]; exact fun _ hd => absurd hd List.not_mem_nil
      · rw [h2, Node.children_of_internal rfl]
        show ∀ d ∈ [0#9, 1#9], d.toNat < 2
        decide
    freqSum := by
      refine hcases ?_ ?_ ?_
      · rw [h0]; exact nofun
      · rw [h1]; exact nofun
      · rw [h2]
        intro _
        show c.setWidth 64 = (recordAt _ 0).freq + (recordAt _ 1).freq
        rw [h0, h1]
        exact (BitVec.add_zero _).symm
    leafEnds := by
      refine hcases ?_ ?_ ?_
      · rw [h0]; exact fun _ => ⟨rfl, rfl⟩
      · rw [h1]; exact fun _ => ⟨rfl, rfl⟩
      · rw [h2]; exact nofun
    symsOnce := by
      rw [Tree.realLeaves, records_singleTree]
      exact List.nodup_singleton x
    fillerSingle := by
      refine .inr ⟨rfl, ?_, ?_, ?_, ?_⟩
      · rw [h0]; exact ⟨rfl, rfl⟩
      · rw [h1]; exact ⟨rfl, rfl, rfl⟩
      · rw [h2]; rfl
      · rw [h2]; exact ⟨rfl, rfl⟩ }

end

/-! ### Any table -/

theorem tbBuild_of_single {s : State} {x : Byte} (h : presentSyms s.ft = [x]) :
    tbBuild s = .ok () (s.built (singleTree s.tree.node (leafNode x (ftAt s.ft x).count)) 0) := by
  have hb := buildSingle_of_empty x (s := s.startBuild) rfl
  rw [tbBuild_of_present (by rw [h]; exact List.cons_ne_nil _ _), h, buildFrom, Cmd.run_bind_ok hb]
  rfl

/-- From every state with symbols TB_BUILD makes a tree of 10_state.md R27, whose root carries the sum of all counts
(42_tree_builder.md R99, R100). -/
theorem tbBuild_treeInv {s : State} (h : presentSyms s.ft ≠ []) :
    ∃ (t : Tree) (seq : Nat), tbBuild s = .ok () (s.built t seq) ∧ t.valid = true ∧ TreeInv t ∧
      (recordAt t t.root.toNat).freq.toNat = totalCount s.ft := by
  match hxs : presentSyms s.ft with
  | [] => exact absurd hxs h
  | [x] =>
    refine ⟨_, _, tbBuild_of_single hxs, rfl, treeInv_singleTree _ _ _, ?_⟩
    show (recordAt _ 2).freq.toNat = _
    rw [recordAt_singleTree _ _ _ (by decide), totalCount, hxs]
    have hc := (ftAt s.ft x).count.isLt
    show ((ftAt s.ft x).count.setWidth 64).toNat = (ftAt s.ft x).count.toNat + 0
    rw [BitVec.toNat_setWidth]
    omega
  | x :: y :: xs =>
    have htwo : 2 ≤ ftN s.ft := by
      rw [ftN, hxs, List.length_cons, List.length_cons]
      omega
    obtain ⟨t, ht, hvalid, htree⟩ := tbBuild_general htwo
    exact ⟨t, _, ht, hvalid, htree.treeInv htwo (presentSyms_nodup _), htree.freq⟩

/-- Settles O19: one symbol or more, the tree is of 10_state.md R27, and at most 256 counts are summed. -/
theorem tbBuildTreeInvariant : Obligations.TbBuildTreeInvariant := by
  intro s h
  obtain ⟨t, seq, ht, -, htree, hfreq⟩ := tbBuild_treeInv (s := s.setSeqStep 0#4) h
  exact ⟨_, issue_of_ok ht, rfl, htree, hfreq, countSum_lt (ftN_le s.ft)⟩

end Sys2Proof.Machine
end

section
/-! What every sub-step keeps, each sub-step taken once: a command stays within a predicate of the state that admits the writes
of the sub-steps, and ends early only with a stop that the predicate admits. -/
namespace Sys2Proof.Machine

/-! ### Staying within a predicate -/

/-- However it ends, the command stays within I, and it ends early within E alone. -/
def Stays {α : Type} (I : State → Prop) (E : Stop → Prop) (c : Cmd α) : Prop :=
  ∀ s, I s → Ends c s (fun _ t => I t) (fun e t => I t ∧ E e)

section
variable {α β : Type} {I : State → Prop} {E : Stop → Prop} {c d : Cmd α} {f : α → Cmd β}

theorem ends_of_ok {s t : State} {a : α} {Q : α → State → Prop} {X : Stop → State → Prop} (h : c s = .ok a t)
    (hQ : Q a t) : Ends c s Q X := by
  rw [Ends, h]
  exact hQ

theorem ends_of_error {s t : State} {e : Stop} {Q : α → State → Prop} {X : Stop → State → Prop}
    (h : c s = .error e t) (hX : X e t) : Ends c s Q X := by
  rw [Ends, h]
  exact hX

/-- A command that runs as another does. -/
theorem ends_of_eq {s : State} {Q : α → State → Prop} {X : Stop → State → Prop} (h : c s = d s) (hd : Ends d s Q X) :
    Ends c s Q X := by
  rw [Ends, h]
  exact hd

theorem stays_pure (a : α) : Stays I E (pure a : Cmd α) := fun _ h => h

theorem stays_getState : Stays I E getState := fun _ h => h

theorem stays_raise {e : ErrKind} (h : E (.raised e)) : Stays I E (raise e : Cmd α) := fun _ hs => ⟨hs, h⟩

theorem stays_update {g : State → State} (h : ∀ s, I s → I (g s)) : Stays I E (update g) := h

theorem ends_bind_stays {s : State} {Q : β → State → Prop} (hs : I s) (hc : Stays I E c)
    (hf : ∀ a t, I t → Ends (f a) t Q (fun e t => I t ∧ E e)) : Ends (c >>= f) s Q (fun e t => I t ∧ E e) :=
  ends_bind (ends_mono (hc s hs) hf fun _ _ h => h)

theorem stays_bind (hc : Stays I E c) (hf : ∀ a, Stays I E (f a)) : Stays I E (c >>= f) :=
  fun _ hs => ends_bind_stays hs hc fun a t ht => hf a t ht

theorem stays_ite {p : Prop} [Decidable p] (hc : Stays I E c) (hd : Stays I E d) : Stays I E (if p then c else d) := by
  split
  · exact hc
  · exact hd

/-- A predicate that is one of several, each of which the command stays within. -/
theorem stays_exists {γ : Type} {J : γ → State → Prop} (h : ∀ x, Stays (J x) E c) : Stays (fun s => ∃ x, J x s) E c :=
  fun s ⟨x, hx⟩ => ends_mono (h x s hx) (fun _ _ ht => ⟨x, ht⟩) fun _ _ ⟨ht, he⟩ => ⟨⟨x, ht⟩, he⟩

end

/-- The loop of DEC_STREAM takes as many steps as its bound says, and one more where it may raise. -/
theorem stays_decodeLoop {I : State → Prop} {E : Stop → Prop} (hstep : Stays I E decStepBody) (k : Nat) : Stays I E (decodeLoop k) := by
  induction k with
  | zero =>
    exact stays_bind stays_getState fun _ => stays_ite (stays_bind hstep fun _ => stays_pure ()) (stays_pure ())
  | succ k ih => exact stays_bind stays_getState fun _ => stays_ite (stays_bind hstep fun _ => ih) (stays_pure ())

/-! ### The writes of the sub-steps -/

/-- The kinds of errors that sub-steps other than the check of the codes raise (60_exceptions.md R176). -/
def usualKinds : List ErrKind :=
  [.emptyInput, .alphabetTooLarge, .queueEmpty, .emptyAlphabet, .badMagic, .truncatedHeader, .truncatedStream,
   .corruptHeader, .corruptStream, .endOfStream, .freqOverflow, .missingCode, .badOperand, .notReady]

/-- The predicate admits what the sub-steps write that leave the tree, the codes, the traversal and the flags, and the stops
they end with. -/
structure Admits (I : State → Prop) (E : Stop → Prop) : Prop where
  raise : ∀ e ∈ usualKinds, E (.raised e)
  ioFailed : ∀ s sp off, I s → ioFails s.env sp off = true → E (.ioFailed sp)
  badBit : ∀ s, I s → 8#4 < s.br.left → E (.stuck .bitOutOfByte)
  ask : ∀ s, I s → I s.failedAsk
  seek : ∀ s p, I s → I (s.setSrc { s.src with pos := p })
  append : ∀ s v, I s → I (s.setSink (s.sink.append s.env v))
  patch : ∀ s off v, I s → I (s.setSink (s.sink.patch off v))
  rewind : ∀ s, I s → I (s.setSink { s.sink with len := 0#64, pos := 0#64 })
  full : ∀ s b, I s → s.bw.nbits = 7#3 → I (s.setBw (s.bw.place b))
  push : ∀ s b, I s → I (s.setBw (s.bw.push b))
  flush : ∀ s, I s → I (s.setBw s.bw.flushed)
  newWriter : ∀ s, I s → I (s.setBw .init)
  reader : ∀ s r, I s → r.left ≤ 8#4 → I (s.setBr r)
  finish : ∀ s, I s → I s.setFinished
  header : ∀ s x, I s → x.valid = s.hdr.valid → I (s.setHdr x)
  count : ∀ s x n, I s → I (s.setFt (ftPut s.ft x { present := true, count := n }))
  newQueue : ∀ s, I s → I (s.setQueue { entries := [], seq := 0 })
  insert : ∀ s v p, I s → I (s.setQueue
    { entries := s.queue.entries ++ [{ value := v, prio := p, seq := s.queue.seq }], seq := s.queue.seq + 1 })
  extract : ∀ s e, I s → I (s.setQueue { s.queue with entries := s.queue.entries.erase e })

section
variable {I : State → Prop} {E : Stop → Prop} (h : Admits I E)
include h

/-! ### Accesses -/

theorem Admits.need (flag : State → Bool) : Stays I E (need flag) := fun s hs => by
  cases hf : flag s with
  | true => exact ends_of_ok (need_of_set hf) hs
  | false => exact ends_of_error (need_of_clear hf) ⟨hs, h.raise _ (by decide)⟩

theorem Admits.srcByte : Stays I E srcByte := fun s hs => by
  by_cases hend : s.src.len ≤ s.src.pos
  · exact ends_of_ok (srcByte_at_end hend) hs
  · cases hio : ioFails s.env .inp s.src.pos with
    | true => exact ends_of_error (srcByte_of_ioFails (BitVec.not_le.1 hend) hio) ⟨h.ask s hs, h.ioFailed s _ _ hs hio⟩
    | false => exact ends_of_ok (srcByte_of_pos_lt_len (BitVec.not_le.1 hend) hio) (h.seek _ _ (h.ask s hs))

theorem Admits.sinkByte (v : Byte) : Stays I E (sinkByte v) := fun s hs => by
  cases hio : ioFails s.env .out s.sink.pos with
  | true => exact ends_of_error (sinkByte_of_ioFails v hio) ⟨h.ask s hs, h.ioFailed s _ _ hs hio⟩
  | false =>
    refine ends_of_ok ((sinkByte_eq v s).trans (if_neg (ne_true_of_eq_false hio))) (h.append _ v (h.ask s hs))

theorem Admits.sinkBytes (bs : List Byte) : Stays I E (sinkBytes bs) := by
  induction bs with
  | nil => exact stays_pure ()
  | cons b bs ih => exact stays_bind (h.sinkByte b) fun _ => ih

theorem Admits.sinkPatch (off : Word) (v : Byte) : Stays I E (sinkPatch off v) := fun s hs => by
  cases hio : ioFails s.env .out off with
  | true => exact ends_of_error (sinkPatch_of_ioFails v hio) ⟨h.ask s hs, h.ioFailed s _ _ hs hio⟩
  | false => exact ends_of_ok (sinkPatch_of_not_ioFails v hio) (h.patch _ off v (h.ask s hs))

/-! ### The BitWriter -/

theorem Admits.writeBit (b : Bool) : Stays I E (writeBit b) := fun s hs => by
  refine ends_bind (ends_update (ends_bind (ends_getState (ends_ite (fun hn => ?_) fun hn => ?_))))
  · exact ends_bind_stays (h.full s b hs hn) (h.sinkByte _) fun _ t ht => h.flush t ht
  · have hpush := h.push s b hs
    rwa [BitWriter.push_of_not_full (show s.bw.nbits ≠ 7#3 from hn)] at hpush

theorem Admits.writeBits (v : Pattern) (n : Nat) : Stays I E (writeBits v n) := by
  have hfrom (i : Nat) : Stays I E (writeBitsFrom v i n) := by
    induction n generalizing i with
    | zero => exact stays_pure ()
    | succ n ih => exact stays_bind (h.writeBit _) fun _ => ih (i + 1)
  exact hfrom 0

theorem Admits.bwWriteBits (v : Pattern) (n : Nat) : Stays I E (bwWriteBits v n) :=
  stays_ite (stays_raise (h.raise _ (by decide))) (h.writeBits v n)

theorem Admits.bwClose : Stays I E bwClose :=
  stays_bind stays_getState fun _ => stays_ite (stays_pure _)
    (stays_bind (h.sinkByte _) fun _ => stays_bind (stays_update h.flush) fun _ => stays_pure _)

/-! ### The BitReader -/

theorem Admits.refill {s : State} (hs : I s) :
    Ends refill s (fun _ t => I t ∧ t.br.left = 8#4) (fun e t => I t ∧ E e) := by
  refine ends_bind (ends_getState (ends_ite (fun _ => ⟨hs, h.raise _ (by decide)⟩) fun _ => ?_))
  refine ends_bind_stays hs h.srcByte fun o t ht => ?_
  cases o with
  | none => exact ⟨h.finish t ht, h.raise _ (by decide)⟩
  | some v => exact ⟨h.reader t _ ht (BitVec.le_refl 8#4), rfl⟩

theorem Admits.takeBit {s : State} (hs : I s) (h0 : s.br.left ≠ 0#4) :
    Ends takeBit s (fun _ t => I t) (fun e t => I t ∧ E e) := by
  by_cases h8 : 8#4 < s.br.left
  · exact ends_of_error ((takeBit_eq s).trans (if_pos h8)) ⟨hs, h.badBit s hs h8⟩
  · have hle := BitVec.not_lt.1 h8
    exact ends_of_ok (takeBit_of_le hle) (h.reader s _ hs (by
      show s.br.left - 1#4 ≤ 8#4
      bv_omega))

theorem Admits.readBit : Stays I E readBit := fun s hs => by
  by_cases h0 : s.br.left = 0#4
  · refine ends_of_eq ((readBit_eq s).trans (if_pos h0)) (ends_bind (ends_mono (h.refill hs) ?_ fun _ _ he => he))
    exact fun _ t ⟨ht, hl⟩ => h.takeBit ht (by rw [hl]; decide)
  · exact ends_of_eq ((readBit_eq s).trans (if_neg h0)) (h.takeBit hs h0)

theorem Admits.decReadBit : Stays I E decReadBit := fun s hs => by
  have hread := h.readBit s hs
  rw [Ends] at hread
  cases hr : Machine.readBit s with
  | ok b t =>
    rw [hr] at hread
    exact ends_of_ok (decReadBit_of_ok hr) hread
  | error e t =>
    rw [hr] at hread
    by_cases he : e = .raised .endOfStream
    · rw [he] at hr
      exact ends_of_error (decReadBit_of_end hr) ⟨hread.1, h.raise _ (by decide)⟩
    · refine ends_of_error (e := e) (t := t) ?_ hread
      rw [Machine.decReadBit, hr]
      split
      · next heq => exact absurd (EStateM.Result.error.inj heq).1 he
      · rfl

/-! ### Containers -/

theorem Admits.needByte : Stays I E needByte :=
  stays_bind h.srcByte fun o => by
    cases o with
    | none => exact stays_raise (h.raise _ (by decide))
    | some v => exact stays_pure v

theorem Admits.needBytes (n : Nat) : Stays I E (needBytes n) := by
  induction n with
  | zero => exact stays_pure []
  | succ n ih => exact stays_bind h.needByte fun _ => stays_bind ih fun _ => stays_pure _

theorem Admits.readEntry (i : Nat) : Stays I E (readEntry i) :=
  stays_bind h.needByte fun x => stays_bind (h.needBytes 4) fun _ =>
    stays_update fun s hs => h.count _ x _ (h.header s _ hs rfl)

theorem Admits.readEntries (i n : Nat) : Stays I E (readEntries i n) := by
  induction n generalizing i with
  | zero => exact stays_pure ()
  | succ n ih => exact stays_bind (h.readEntry i) fun _ => ih (i + 1)

/-- All of CF_READ_HEADER but its start and its end (46_container_format.md R133). -/
theorem Admits.cfReadHeader {s : State} (hs : I (clearForHeader s)) :
    Ends cfReadHeader s (fun _ t => ∃ u, I u ∧ t = u.setHdrValid true) (fun e t => I t ∧ E e) := by
  have hset (g : Header → Header) (hg : ∀ x, (g x).valid = x.valid) :
      Stays I E (update fun t => t.setHdr (g t.hdr)) := stays_update fun t ht => h.header t _ ht (hg _)
  refine ends_bind (ends_update (ends_bind_stays hs h.needByte fun m0 _ ht => ends_bind_stays ht h.needByte
    fun m1 _ ht => ends_bind_stays ht (hset (fun x => { x with magic := m0 ++ m1 }) fun _ => rfl) fun _ _ ht => ?_))
  refine ends_ite (fun _ => ⟨ht, h.raise _ (by decide)⟩) fun _ => ?_
  refine ends_bind_stays ht (h.needBytes 8) fun z _ ht =>
    ends_bind_stays ht (hset (fun x => { x with size := be64Value z }) fun _ => rfl) fun _ _ ht => ?_
  refine ends_bind_stays ht h.needByte fun n _ ht =>
    ends_bind_stays ht (hset (fun x => { x with num := n }) fun _ => rfl) fun _ _ ht => ?_
  refine ends_bind_stays ht h.needByte fun p _ ht =>
    ends_bind_stays ht (hset (fun x => { x with pad := p }) fun _ => rfl) fun _ _ ht => ?_
  exact ends_bind_stays ht (h.readEntries 0 n.toNat) fun _ u hu => ⟨u, hu, rfl⟩

theorem Admits.cfWriteHeader (pad : Byte) (size : Word) : Stays I E (cfWriteHeader pad size) :=
  stays_bind stays_getState fun _ => stays_ite (stays_raise (h.raise _ (by decide)))
    (stays_ite (stays_raise (h.raise _ (by decide))) (h.sinkBytes _))

/-! ### Tables, queue, streams -/

theorem Admits.countByte (v : Byte) : Stays I E (countByte v) := fun s hs => by
  by_cases hmax : (ftAt s.ft v).count = BitVec.allOnes 32
  · exact ends_of_error ((countByte_eq v s).trans (if_pos hmax)) ⟨hs, h.raise _ (by decide)⟩
  · exact ends_of_ok ((countByte_eq v s).trans (if_neg hmax)) (h.count s v _ hs)

theorem Admits.scanLoop (k : Nat) (n : Word) : Stays I E (scanLoop k n) := by
  induction k generalizing n with
  | zero => exact stays_pure n
  | succ k ih =>
    refine stays_bind h.srcByte fun o => ?_
    cases o with
    | none => exact stays_pure n
    | some v => exact stays_bind (h.countByte v) fun _ => ih _

theorem Admits.pqInit : Stays I E pqInit := stays_update h.newQueue

theorem Admits.pqInsert (v : BitVec 16) (p : Word) : Stays I E (pqInsert v p) := stays_update fun s hs => h.insert s v p hs

theorem Admits.pqPeek : Stays I E pqPeek :=
  stays_bind stays_getState fun s => by
    cases minEntry s.env s.queue.entries with
    | none => exact stays_raise (h.raise _ (by decide))
    | some e => exact stays_pure e

theorem Admits.pqExtractMin : Stays I E pqExtractMin :=
  stays_bind stays_getState fun s => by
    cases minEntry s.env s.queue.entries with
    | none => exact stays_raise (h.raise _ (by decide))
    | some e => exact stays_bind (stays_update fun t ht => h.extract t e ht) fun _ => stays_pure e

theorem Admits.srcOpen : Stays I E srcOpen := stays_update fun s hs => h.seek s _ hs

theorem Admits.sinkOpen : Stays I E sinkOpen := stays_update h.rewind

theorem Admits.bwInit : Stays I E bwInit := stays_update h.newWriter

theorem Admits.brInit : Stays I E brInit := stays_update fun s hs => h.reader s _ hs (by decide)

theorem Admits.encodeByte (v : Byte) : Stays I E (encodeByte v) :=
  stays_bind stays_getState fun _ => stays_ite (h.writeBits _ _) (stays_raise (h.raise _ (by decide)))

theorem Admits.encodeLoop (k : Nat) : Stays I E (encodeLoop k) := by
  induction k with
  | zero => exact stays_pure ()
  | succ k ih =>
    refine stays_bind h.srcByte fun o => ?_
    cases o with
    | none => exact stays_pure ()
    | some v => exact stays_bind (h.encodeByte v) fun _ => ih

theorem Admits.encodeStream : Stays I E encodeStream :=
  stays_bind (h.need _) fun _ => stays_bind stays_getState fun _ => h.encodeLoop _

theorem Admits.patchPadding (pad : Byte) : Stays I E (patchPadding pad) :=
  stays_bind stays_getState fun _ => stays_ite (stays_raise (h.raise _ (by decide)))
    (stays_ite (stays_raise (h.raise _ (by decide))) (h.sinkPatch _ pad))

theorem Admits.checkHeader : Stays I E checkHeader := fun s hs => by
  by_cases hbad : s.hdr.size = 0#64 ∨ ftN s.ft = 0
  · exact ends_of_error (if_pos hbad) ⟨hs, h.raise _ (by decide)⟩
  · exact ends_of_ok (if_neg hbad) hs

theorem Admits.decStream (hstep : Stays I E decStepBody) : Stays I E decStream :=
  stays_bind (h.need _) fun _ => stays_bind stays_getState fun _ => stays_decodeLoop hstep _

end

end Sys2Proof.Machine
end

section
/-! What no command writes, R0 and R1, the flags, and the kinds of errors (10_state.md R10, R12, R14, R25, R26,
60_exceptions.md R176, R181, R188). -/
namespace Sys2Proof.Machine

/-- What the sub-steps leave as it is: the operands and results, CMD, the host's list, the input and the parameters. -/
structure Outside where
  a : Pattern
  b : Word
  r0 : Word
  r1 : Word
  cmd : Byte
  host : List HostAction
  inMem : Memory
  inLen : Word
  tieRank : List PqEntry
  ioFaults : List IoFault

def State.outside (s : State) : Outside :=
  { a := s.a, b := s.b, r0 := s.r0, r1 := s.r1, cmd := s.cmd, host := s.host, inMem := s.src.mem, inLen := s.src.len
    tieRank := s.env.tieRank, ioFaults := s.env.ioFaults }

/-- The validity flags and SEQ_STEP. -/
structure Flags where
  tree : Bool
  codes : Bool
  dec : Bool
  hdr : Bool
  seqStep : BitVec 4

def State.flags (s : State) : Flags :=
  { tree := s.tree.valid, codes := s.codes.valid, dec := s.dec.valid, hdr := s.hdr.valid, seqStep := s.seqStep }

/-- What a command may end early with: a kind of R176 that a command can end with, an access that fails only where the oracle
has a fault. -/
def Legal (faults : List IoFault) : Stop → Prop
  | .raised e => e.code ∈ legalStatus ∧ e ≠ .ioError
  | .ioFailed _ => faults ≠ []
  | .stuck _ => True

/-- The outside is this, and so is what φ tells of the flags. -/
def Same {δ : Type} (φ : Flags → δ) (x : Outside) (p : δ) (s : State) : Prop := s.outside = x ∧ φ s.flags = p

section
variable {δ : Type} {φ : Flags → δ} {x : Outside} {p : δ}

theorem legal_of_usual : ∀ e ∈ usualKinds, Legal x.ioFaults (.raised e) := by
  show ∀ e ∈ usualKinds, e.code ∈ legalStatus ∧ e ≠ .ioError
  decide

theorem admits_same : Admits (Same φ x p) (Legal x.ioFaults) where
  raise := legal_of_usual
  ioFailed s sp off h hio hnil := by
    have hfaults : s.env.ioFaults = [] := (congrArg Outside.ioFaults h.1).trans hnil
    rw [ioFails_of_nil hfaults] at hio
    cases hio
  badBit _ _ _ := trivial
  ask _ h := h
  seek _ _ h := h
  append _ _ h := h
  patch _ _ _ h := h
  rewind _ h := h
  full _ _ h _ := h
  push _ _ h := h
  flush _ h := h
  newWriter _ h := h
  reader _ _ h _ := h
  finish _ h := h
  header s y h hy := ⟨h.1, by rw [← h.2, State.flags, State.flags, State.setHdr_hdr, hy]; rfl⟩
  count _ _ _ h := h
  newQueue _ h := h
  insert _ _ _ h := h
  extract _ _ h := h

/-! ### The sub-steps on the tree and the codes -/

theorem same_readNode (i : NodeIx) : Stays (Same φ x p) (Legal x.ioFaults) (readNode i) :=
  stays_bind stays_getState fun s => by
    cases nodeAt s.tree.node i with
    | none => exact fun _ hs => ⟨hs, trivial⟩
    | some n => exact stays_pure n

theorem same_descend (c : NodeIx) : Stays (Same φ x p) (Legal x.ioFaults) (descend c) := by
  have hcorrupt {α : Type} : Stays (Same φ x p) (Legal x.ioFaults) (raise .corruptStream : Cmd α) :=
    stays_raise (legal_of_usual _ (by decide))
  refine stays_ite hcorrupt (stays_bind (same_readNode c) fun ch => ?_)
  cases ch.kind with
  | leaf =>
    exact stays_ite hcorrupt (stays_bind (admits_same.sinkByte _) fun _ =>
      stays_bind (stays_update fun _ h => h) fun _ => stays_pure _)
  | internal => exact stays_bind (stays_update fun _ h => h) fun _ => stays_pure _

theorem same_decStepBody : Stays (Same φ x p) (Legal x.ioFaults) decStepBody :=
  stays_bind admits_same.decReadBit fun _ => stays_bind stays_getState fun _ =>
    stays_bind (same_readNode _) fun _ => same_descend _

theorem same_setCode (y : Byte) (c : Code) : Stays (Same φ x p) (Legal x.ioFaults) (setCode y c) :=
  stays_update fun _ h => h

theorem same_walk (k : Nat) (i : NodeIx) (bits : Pattern) (depth : Nat) :
    Stays (Same φ x p) (Legal x.ioFaults) (walk k i bits depth) := by
  induction k generalizing i bits depth with
  | zero => exact fun _ hs => ⟨hs, trivial⟩
  | succ k ih =>
    refine stays_bind (same_readNode i) fun nd => ?_
    cases nd.kind with
    | leaf => exact stays_ite (stays_pure ()) (same_setCode _ _)
    | internal => exact stays_bind (ih _ _ _) fun _ => ih _ _ _

theorem same_assignCodes (root : NodeIx) (l r : Node) : Stays (Same φ x p) (Legal x.ioFaults) (assignCodes root l r) :=
  stays_ite (stays_ite (same_setCode _ _) (stays_ite (same_setCode _ _) (stays_pure ()))) (same_walk _ _ _ _)

theorem same_checkCodes : Stays (Same φ x p) (Legal x.ioFaults) checkCodes := fun s hs => by
  by_cases hok : codesOk s.codes.ct = true
  · exact ends_of_ok (checkCodes_of_ok hok) hs
  · exact ends_of_error (if_neg hok) ⟨hs, (by decide : ErrKind.internalCheckFailed.code ∈ legalStatus), nofun⟩

theorem same_cgVerify : Stays (Same φ x p) (Legal x.ioFaults) cgVerify :=
  stays_bind (admits_same.need _) fun _ => same_checkCodes

/-- CG_GENERATE after it has found a tree and cleared the codes; CT_VALID is written at the end (43_code_generator.md R105). -/
theorem cgGenerate_ends {s : State} (hvalid : s.tree.valid = true)
    (hs : Same φ x p (s.setCodes { ct := ctEmpty, valid := false })) :
    Ends cgGenerate s (fun _ t => ∃ u, Same φ x p u ∧ t = u.setCtValid true)
      (fun e t => Same φ x p t ∧ Legal x.ioFaults e) := by
  refine ends_bind (ends_of_ok (need_of_set hvalid) (ends_bind (ends_update (ends_bind (ends_getState ?_)))))
  refine ends_bind_stays hs (same_readNode _) fun root _ ht => ends_bind_stays ht (same_readNode _) fun l _ ht => ?_
  refine ends_bind_stays ht (same_readNode _) fun r _ ht => ends_bind_stays ht (same_assignCodes _ l r) fun _ _ ht => ?_
  exact ends_bind_stays ht same_checkCodes fun _ u hu => ⟨u, hu, rfl⟩

/-! ### The sub-steps that write flags -/

/-- What is told of the flags is SEQ_STEP at most. -/
def SeqStepOnly (φ : Flags → δ) : Prop := ∀ f g : Flags, f.seqStep = g.seqStep → φ f = φ g

theorem Same.of_flags (hφ : SeqStepOnly φ) {s t : State} (h : Same φ x p s) (hout : t.outside = s.outside)
    (hseq : t.seqStep = s.seqStep) : Same φ x p t :=
  ⟨hout.trans h.1, (hφ t.flags s.flags hseq).trans h.2⟩

theorem same_ftClear (hφ : SeqStepOnly φ) : Stays (Same φ x p) (Legal x.ioFaults) ftClear :=
  stays_update fun _ h => h.of_flags hφ rfl rfl

theorem same_freqScan (hφ : SeqStepOnly φ) : Stays (Same φ x p) (Legal x.ioFaults) freqScan :=
  stays_bind (same_ftClear hφ) fun _ => stays_bind stays_getState fun _ => admits_same.scanLoop _ _

theorem same_cfReadHeader (hφ : SeqStepOnly φ) : Stays (Same φ x p) (Legal x.ioFaults) cfReadHeader := fun s hs => by
  have hdrop : Same φ x p s.dropTree := hs.of_flags hφ rfl rfl
  have hhdr : Same φ x p (s.dropTree.setHdrValid false) := hdrop.of_flags hφ rfl rfl
  have hclear : Same φ x p (clearForHeader s) := hhdr
  refine ends_mono (admits_same.cfReadHeader hclear) (fun _ t ⟨u, hu, ht⟩ => ?_) fun _ _ h => h
  subst ht
  exact hu.of_flags hφ rfl rfl

theorem same_cgGenerate (hφ : SeqStepOnly φ) : Stays (Same φ x p) (Legal x.ioFaults) cgGenerate := fun s hs => by
  cases hvalid : s.tree.valid with
  | true =>
    have hclear : Same φ x p (s.setCodes { ct := ctEmpty, valid := false }) := hs.of_flags hφ rfl rfl
    refine ends_mono (cgGenerate_ends hvalid hclear) (fun _ t ⟨u, hu, ht⟩ => ?_) fun _ _ h => h
    subst ht
    exact hu.of_flags hφ rfl rfl
  | false =>
    exact ends_of_error (Cmd.run_bind_error (need_of_clear hvalid)) ⟨hs, legal_of_usual _ (by decide)⟩

theorem same_tbBuild (hφ : SeqStepOnly φ) : Stays (Same φ x p) (Legal x.ioFaults) tbBuild := fun s hs => by
  by_cases hempty : presentSyms s.ft = []
  · exact ends_of_error (tbBuild_of_empty hempty) ⟨hs.of_flags hφ rfl rfl, legal_of_usual _ (by decide)⟩
  · obtain ⟨t, seq, ht, -⟩ := tbBuild_treeInv hempty
    exact ends_of_ok ht (hs.of_flags hφ rfl rfl)

theorem same_decInit (hφ : SeqStepOnly φ) : Stays (Same φ x p) (Legal x.ioFaults) decInit :=
  stays_bind (admits_same.need _) fun _ => stays_update fun _ h => h.of_flags hφ rfl rfl

end

/-! ### The composite commands -/

section
variable {x : Outside}

/-- The flags and SEQ_STEP left out. -/
abbrev Around (x : Outside) : State → Prop := Same (fun _ => ()) x ()

theorem seqStepOnly_unit : SeqStepOnly fun _ => () := fun _ _ _ => rfl

theorem around_update {g : State → State} (h : ∀ s, (g s).outside = s.outside) :
    Stays (Around x) (Legal x.ioFaults) (update g) := stays_update fun s hs => ⟨(h s).trans hs.1, rfl⟩

theorem around_seqStep (n : BitVec 4) : Stays (Around x) (Legal x.ioFaults) (seqStep n) := around_update fun _ => rfl

theorem around_checkAlphabet : Stays (Around x) (Legal x.ioFaults) checkAlphabet :=
  stays_bind (around_seqStep _) fun _ => stays_bind stays_getState fun _ =>
    stays_ite (stays_raise (legal_of_usual _ (by decide))) (stays_bind (around_seqStep _) fun _ =>
      stays_ite (stays_raise (legal_of_usual _ (by decide))) (stays_pure ()))

theorem around_compress : Stays (Around x) (Legal x.ioFaults) compress := by
  refine stays_bind (around_seqStep _) fun _ => stays_bind admits_same.srcOpen fun _ =>
    stays_bind (same_freqScan seqStepOnly_unit) fun size => stays_bind around_checkAlphabet fun _ => ?_
  refine stays_bind (around_seqStep _) fun _ => stays_bind (same_tbBuild seqStepOnly_unit) fun _ =>
    stays_bind (same_cgGenerate seqStepOnly_unit) fun _ => stays_bind same_cgVerify fun _ => ?_
  refine stays_bind (around_seqStep _) fun _ => stays_bind admits_same.sinkOpen fun _ =>
    stays_bind (admits_same.cfWriteHeader _ size) fun _ => stays_bind (around_seqStep _) fun _ => ?_
  refine stays_bind admits_same.srcOpen fun _ => stays_bind admits_same.bwInit fun _ =>
    stays_bind admits_same.encodeStream fun _ => stays_bind (around_seqStep _) fun _ => ?_
  exact stays_bind admits_same.bwClose fun pad => stays_bind (around_seqStep _) fun _ =>
    stays_bind (admits_same.patchPadding pad) fun _ => around_seqStep _

theorem around_decStreamInSequence : Stays (Around x) (Legal x.ioFaults) decStreamInSequence := fun s hs => by
  have hrun := (admits_same (φ := fun _ => ()) (x := x) (p := ())).decStream same_decStepBody s hs
  rw [Ends] at hrun ⊢
  rw [decStreamInSequence]
  cases hd : decStream s with
  | ok a t =>
    rw [hd] at hrun
    exact hrun
  | error e t =>
    rw [hd] at hrun
    exact ⟨⟨hrun.1.1, rfl⟩, hrun.2⟩

theorem around_decompress : Stays (Around x) (Legal x.ioFaults) decompress := by
  refine stays_bind (around_seqStep _) fun _ => stays_bind admits_same.srcOpen fun _ =>
    stays_bind (same_cfReadHeader seqStepOnly_unit) fun _ => stays_bind (around_seqStep _) fun _ => ?_
  refine stays_bind admits_same.checkHeader fun _ => stays_bind (around_seqStep _) fun _ =>
    stays_bind (same_tbBuild seqStepOnly_unit) fun _ => stays_bind (around_seqStep _) fun _ => ?_
  exact stays_bind admits_same.sinkOpen fun _ => stays_bind admits_same.brInit fun _ =>
    stays_bind (same_decInit seqStepOnly_unit) fun _ => stays_bind around_decStreamInSequence fun _ => around_seqStep _

end

/-! ### Outcomes -/

/-- The commands whose rules write R0 (10_state.md R10). -/
def writesR0 (i : Instr) : Bool :=
  i ∈ [.freqScan, .pqExtractMin, .pqPeek, .pqSize, .pqIsEmpty, .bwClose, .brReadBit, .decStep]

/-- The commands whose rules write R1 (10_state.md R10). -/
def writesR1 (i : Instr) : Bool := i ∈ [.pqExtractMin, .pqPeek, .decStep]

/-- The state is as outside and of the flags told, but for the results that the command writes. -/
structure Results {δ : Type} (φ : Flags → δ) (x : Outside) (p : δ) (i : Instr) (t : State) : Prop where
  outside : t.outside = { x with r0 := t.r0, r1 := t.r1 }
  flags : φ t.flags = p
  r0 : writesR0 i = false → t.r0 = x.r0
  r1 : writesR1 i = false → t.r1 = x.r1

/-- So is the next state, where a fault leaves the results as they were, and STATUS is a kind a command can end with. -/
structure Outcome {δ : Type} (φ : Flags → δ) (x : Outside) (p : δ) (i : Instr) (t : State) : Prop
    extends Results φ x p i t where
  onFault : t.status ≠ 0x00#8 → t.r0 = x.r0 ∧ t.r1 = x.r1
  legal : t.status ∈ legalStatus
  noIoError : x.ioFaults = [] → t.status ≠ 0x01#8

section
variable {δ : Type} {φ : Flags → δ} {x : Outside} {p : δ} {i : Instr} {s t : State}

theorem Same.results (h : Same φ x p s) : Results φ x p i s := by
  obtain ⟨rfl, rfl⟩ := h
  exact ⟨rfl, rfl, fun _ => rfl, fun _ => rfl⟩

theorem Same.results_setR0 (h : Same φ x p s) (hi : writesR0 i = true) (v : Word) : Results φ x p i (s.setR0 v) := by
  obtain ⟨rfl, rfl⟩ := h
  exact ⟨rfl, rfl, fun hn => absurd (hi.symm.trans hn) nofun, fun _ => rfl⟩

theorem Same.results_setR1 (h : Same φ x p s) (h0 : writesR0 i = true) (h1 : writesR1 i = true) (v w : Word) :
    Results φ x p i ((s.setR0 v).setR1 w) := by
  obtain ⟨rfl, rfl⟩ := h
  exact ⟨rfl, rfl, fun hn => absurd (h0.symm.trans hn) nofun, fun hn => absurd (h1.symm.trans hn) nofun⟩

/-- A fault's STATUS on a state as outside. -/
theorem Same.outcome_of_fault (h : Same φ x p s) {c : Byte} (hc : c ∈ legalStatus)
    (hio : x.ioFaults = [] → c ≠ 0x01#8) : Outcome φ x p i (s.setStatus c) := by
  obtain ⟨rfl, rfl⟩ := h
  exact ⟨⟨rfl, rfl, fun _ => rfl, fun _ => rfl⟩, fun _ => ⟨rfl, rfl⟩, hc, hio⟩

theorem code_ne_ioError : ∀ e : ErrKind, e ≠ .ioError → e.code ≠ 0x01#8 := fun e => by cases e <;> decide

/-- The outcome of a command, from how its body ends. -/
theorem outcome_of_ends {c : Cmd Unit} (h : Ends c s (fun _ u => Results φ x p i u)
    (fun e u => Same φ x p u ∧ Legal x.ioFaults e)) (ht : finish (c s) = .next t) : Outcome φ x p i t := by
  obtain ⟨u, hu, hn⟩ | ⟨e, u, ⟨hu, hc, hne⟩, hn⟩ | ⟨sp, u, ⟨hu, hne⟩, hn⟩ | ⟨f, u, -, hn⟩ := finish_of_ends h
  · rw [hn] at ht
    cases ht
    exact ⟨⟨hu.outside, hu.flags, hu.r0, hu.r1⟩, fun hne => absurd rfl hne, List.mem_cons_self,
      fun _ => (by decide : statusOk ≠ 0x01#8)⟩
  · rw [hn] at ht
    cases ht
    exact hu.outcome_of_fault hc fun _ => code_ne_ioError e hne
  · rw [hn] at ht
    cases ht
    exact hu.outcome_of_fault (c := ErrKind.ioError.code) (by decide) fun hnil => absurd hnil hne
  · rw [hn] at ht
    cases ht

theorem outcome_of_stays {c : Cmd Unit} (h : Stays (Same φ x p) (Legal x.ioFaults) c) (hs : Same φ x p s)
    (ht : finish (c s) = .next t) : Outcome φ x p i t :=
  outcome_of_ends (ends_mono (h s hs) (fun _ _ hu => hu.results) fun _ _ he => he) ht

/-- A sub-step and then its result. -/
theorem outcome_of_result {α : Type} {c : Cmd α} {f : α → Cmd Unit} (hc : Stays (Same φ x p) (Legal x.ioFaults) c)
    (hf : ∀ a u, Same φ x p u → ∃ v, f a u = .ok () v ∧ Results φ x p i v) (hs : Same φ x p s)
    (ht : finish ((c >>= f) s) = .next t) : Outcome φ x p i t := by
  refine outcome_of_ends (ends_bind_stays hs hc fun a u hu => ?_) ht
  obtain ⟨v, hv, hr⟩ := hf a u hu
  exact ends_of_ok hv hr

theorem same_self (s : State) : Same φ s.outside (φ s.flags) s := ⟨rfl, rfl⟩

end

/-- The commands that write no flag (10_state.md R26). -/
def silent (i : Instr) : Bool :=
  i ∉ [.ftClear, .ftSet, .freqScan, .cfReadHeader, .tbBuild, .cgGenerate, .decInit, .compress, .decompress]

section
variable {δ : Type} {φ : Flags → δ} {s t : State}

/-- A command that is not composite leaves the outside and what is told of the flags, SEQ_STEP at most where it writes
flags. -/
theorem exec_outcome {i : Instr} (hφ : silent i = true ∨ SeqStepOnly φ) (hc : i ≠ .compress) (hd : i ≠ .decompress)
    (ht : exec i s = .next t) : Outcome φ s.outside (φ (s.setSeqStep 0#4).flags) i t := by
  have hs : Same φ s.outside (φ (s.setSeqStep 0#4).flags) (s.setSeqStep 0#4) := same_self (s.setSeqStep 0#4)
  have hloud (h : silent i = false) : SeqStepOnly φ := hφ.resolve_left (by rw [h]; exact Bool.false_ne_true)
  have h := admits_same (φ := φ) (x := s.outside) (p := φ (s.setSeqStep 0#4).flags)
  cases i with
  | ftClear => exact outcome_of_stays (same_ftClear (hloud rfl)) hs ht
  | ftSet =>
    exact outcome_of_stays (c := ftSet (opSymbol s) (opCount s))
      (stays_update fun _ hu => hu.of_flags (hloud rfl) rfl rfl) hs ht
  | freqScan =>
    exact outcome_of_result (same_freqScan (hloud rfl)) (fun n u hu => ⟨_, rfl, hu.results_setR0 rfl n⟩) hs ht
  | srcOpen => exact outcome_of_stays h.srcOpen hs ht
  | sinkOpen => exact outcome_of_stays h.sinkOpen hs ht
  | pqInit => exact outcome_of_stays h.pqInit hs ht
  | pqInsert => exact outcome_of_stays (h.pqInsert _ _) hs ht
  | pqExtractMin =>
    exact outcome_of_result h.pqExtractMin (fun e u hu => ⟨_, rfl, hu.results_setR1 rfl rfl _ _⟩) hs ht
  | pqPeek => exact outcome_of_result h.pqPeek (fun e u hu => ⟨_, rfl, hu.results_setR1 rfl rfl _ _⟩) hs ht
  | pqSize =>
    exact outcome_of_ends (c := update fun u => u.setR0 (sizeWord u.queue.entries.length))
      (hs.results_setR0 rfl _) ht
  | pqIsEmpty =>
    exact outcome_of_ends (c := update fun u => u.setR0 (if u.queue.entries.length = 0 then 1#64 else 0#64))
      (hs.results_setR0 rfl _) ht
  | tbBuild => exact outcome_of_stays (same_tbBuild (hloud rfl)) hs ht
  | cgGenerate => exact outcome_of_stays (same_cgGenerate (hloud rfl)) hs ht
  | cgVerify => exact outcome_of_stays same_cgVerify hs ht
  | bwInit => exact outcome_of_stays h.bwInit hs ht
  | bwWriteBit => exact outcome_of_stays (h.writeBit _) hs ht
  | bwWriteBits => exact outcome_of_stays (h.bwWriteBits _ _) hs ht
  | bwClose => exact outcome_of_result h.bwClose (fun n u hu => ⟨_, rfl, hu.results_setR0 rfl _⟩) hs ht
  | brInit => exact outcome_of_stays h.brInit hs ht
  | brReadBit => exact outcome_of_result h.readBit (fun n u hu => ⟨_, rfl, hu.results_setR0 rfl _⟩) hs ht
  | cfWriteHeader => exact outcome_of_stays (h.cfWriteHeader _ _) hs ht
  | cfReadHeader => exact outcome_of_stays (same_cfReadHeader (hloud rfl)) hs ht
  | compress => exact absurd rfl hc
  | encodeStream => exact outcome_of_stays h.encodeStream hs ht
  | patchPadding => exact outcome_of_stays (h.patchPadding _) hs ht
  | decompress => exact absurd rfl hd
  | decInit => exact outcome_of_stays (same_decInit (hloud rfl)) hs ht
  | decStep =>
    refine outcome_of_result (stays_bind (h.need hasDecoder) fun _ => same_decStepBody) (fun o u hu => ?_) hs ht
    cases o with
    | none => exact ⟨_, rfl, hu.results_setR0 rfl _⟩
    | some y => exact ⟨_, rfl, hu.results_setR1 rfl rfl _ _⟩
  | decStream => exact outcome_of_stays (h.decStream same_decStepBody) hs ht

/-- Every command leaves the outside (10_state.md R10, R25). -/
theorem exec_around {i : Instr} (ht : exec i s = .next t) : Outcome (fun _ => ()) s.outside () i t := by
  by_cases hc : i = .compress
  · subst hc
    exact outcome_of_stays around_compress (same_self s) ht
  · by_cases hd : i = .decompress
    · subst hd
      exact outcome_of_stays around_decompress (same_self s) ht
    · exact exec_outcome (.inr seqStepOnly_unit) hc hd ht

end

/-- Settles O56: no sub-step writes the outside, and the results are written last. -/
theorem operandsAndResults : Obligations.OperandsAndResults := by
  intro i s t ht
  have h := exec_around ht
  have hout := h.outside
  refine ⟨congrArg Outside.a hout, congrArg Outside.b hout, congrArg Outside.cmd hout, congrArg Outside.host hout,
    congrArg Outside.inMem hout, congrArg Outside.inLen hout, congrArg Outside.tieRank hout,
    congrArg Outside.ioFaults hout, h.onFault, fun hi => h.r0 ?_, fun hi => h.r1 ?_⟩
  · rw [writesR0, decide_eq_false hi]
  · rw [writesR1, decide_eq_false hi]

/-- Settles O57: the kinds that sub-steps raise. -/
theorem statusValues : Obligations.StatusValues := by
  intro i s t ht
  have h := exec_around ht
  refine ⟨h.legal, fun he => ?_, fun he => ?_, h.noIoError⟩
  · exact absurd (he ▸ h.legal) (by decide)
  · exact absurd (he ▸ h.legal) (by decide)

/-! ### The flags -/

section
variable {s t : State}

theorem freqScan_flags (ht : exec .freqScan s = .next t) :
    t.flags = (s.setSeqStep 0#4).dropTree.flags := by
  have h := admits_same (φ := id) (x := s.outside) (p := (s.setSeqStep 0#4).dropTree.flags)
  have hend : Ends (freqScan >>= fun n => update fun u => u.setR0 n) (s.setSeqStep 0#4)
      (fun _ u => Results id s.outside (s.setSeqStep 0#4).dropTree.flags .freqScan u)
      (fun e u => Same id s.outside (s.setSeqStep 0#4).dropTree.flags u ∧ Legal s.env.ioFaults e) := by
    refine ends_bind (ends_bind (ends_update (ends_bind (ends_getState ?_))))
    exact ends_mono (h.scanLoop _ _ _ (same_self (φ := id) (s.setSeqStep 0#4).dropTree))
      (fun n u hu => hu.results_setR0 rfl n) fun _ _ he => he
  exact (outcome_of_ends hend ht).flags

theorem finish_cases_of_valid {c : Cmd Unit} {g : State → State} {x : Outside} {f : Flags}
    (h : Ends c s (fun _ u => ∃ v, Same id x f v ∧ u = g v) (fun e u => Same id x f u ∧ Legal x.ioFaults e))
    (ht : finish (c s) = .next t) :
    (t.status = 0x00#8 ∧ ∃ v, Same id x f v ∧ t.flags = (g v).flags) ∨ (t.status ≠ 0x00#8 ∧ t.flags = f) := by
  obtain ⟨u, ⟨v, hv, rfl⟩, hn⟩ | ⟨e, u, ⟨hu, -⟩, hn⟩ | ⟨sp, u, ⟨hu, -⟩, hn⟩ | ⟨e, u, -, hn⟩ := finish_of_ends h
  · rw [hn] at ht
    cases ht
    exact .inl ⟨rfl, v, hv, rfl⟩
  · rw [hn] at ht
    cases ht
    refine .inr ⟨?_, hu.2⟩
    show e.code ≠ 0x00#8
    cases e <;> decide
  · rw [hn] at ht
    cases ht
    exact .inr ⟨(by decide : ErrKind.ioError.code ≠ 0x00#8), hu.2⟩
  · rw [hn] at ht
    cases ht

theorem ftClear_flags (ht : exec .ftClear s = .next t) : t.flags = (s.setSeqStep 0#4).dropTree.flags := by
  rw [exec_ftClear] at ht
  cases ht
  rfl

theorem ftSet_flags (ht : exec .ftSet s = .next t) : t.flags = (s.setSeqStep 0#4).dropTree.flags := by
  rw [exec_ftSet] at ht
  cases ht
  rfl

/-- HDR_VALID is 1 exactly on success (10_state.md R26). -/
theorem cfReadHeader_flags (ht : exec .cfReadHeader s = .next t) :
    t.flags = { (s.setSeqStep 0#4).dropTree.flags with hdr := decide (t.status = 0x00#8) } := by
  have hend := (admits_same (φ := id) (x := s.outside)
    (p := { (s.setSeqStep 0#4).dropTree.flags with hdr := false })).cfReadHeader (s := s.setSeqStep 0#4) ⟨rfl, rfl⟩
  obtain ⟨hok, v, hv, hf⟩ | ⟨hne, hf⟩ := finish_cases_of_valid hend ht
  · have hv : v.flags = _ := hv.2
    rw [hf, hok]
    show { v.flags with hdr := true } = _
    rw [hv]
    rfl
  · rw [hf, decide_eq_false hne]

theorem tbBuild_flags (ht : exec .tbBuild s = .next t) :
    t.flags = { (s.setSeqStep 0#4).dropTree.flags with tree := decide (t.status = 0x00#8) } := by
  by_cases hempty : presentSyms s.ft = []
  · rw [tbBuildEmptyTable s hempty] at ht
    cases ht
    rfl
  · obtain ⟨u, seq, hu, hvalid, -⟩ := tbBuild_treeInv (s := s.setSeqStep 0#4) hempty
    rw [show exec .tbBuild s = _ from issue_of_ok hu] at ht
    cases ht
    show Flags.mk u.valid _ _ _ _ = _
    rw [hvalid]
    rfl

/-- CT_VALID alone is written, and it is 1 exactly on success (10_state.md R26). -/
theorem cgGenerate_flags (hvalid : s.tree.valid = true) (ht : exec .cgGenerate s = .next t) :
    t.flags = { (s.setSeqStep 0#4).flags with codes := decide (t.status = 0x00#8) } := by
  have hend := cgGenerate_ends (φ := id) (x := s.outside) (p := { (s.setSeqStep 0#4).flags with codes := false })
    (s := s.setSeqStep 0#4) hvalid ⟨rfl, rfl⟩
  obtain ⟨hok, v, hv, hf⟩ | ⟨hne, hf⟩ := finish_cases_of_valid hend ht
  · have hv : v.flags = _ := hv.2
    rw [hf, hok]
    show { v.flags with codes := true } = _
    rw [hv]
    rfl
  · rw [hf, decide_eq_false hne]

theorem silent_flags {i : Instr} (hi : silent i = true) (ht : exec i s = .next t) :
    t.flags = (s.setSeqStep 0#4).flags :=
  (exec_outcome (φ := id) (.inl hi) (by rintro rfl; cases hi) (by rintro rfl; cases hi) ht).flags

end

/-- Settles O59: the flags after each command, command by command. -/
theorem flagDiscipline : Obligations.FlagDiscipline := by
  intro i s t ht
  refine ⟨fun hi => ?_, fun hi => ?_, fun hi => ?_, fun hi => ?_, fun hi => ?_, fun hi => ?_, fun hi => ?_⟩
  · have hcleared {f : Flags} (hf : t.flags = f) (h : f.tree = false ∧ f.codes = false ∧ f.dec = false) :
        t.tree.valid = false ∧ t.codes.valid = false ∧ t.dec.valid = false := by rwa [← hf] at h
    simp only [List.mem_cons, List.not_mem_nil, or_false] at hi
    obtain rfl | rfl | rfl | rfl := hi
    · exact hcleared (ftClear_flags ht) ⟨rfl, rfl, rfl⟩
    · exact hcleared (ftSet_flags ht) ⟨rfl, rfl, rfl⟩
    · exact hcleared (freqScan_flags ht) ⟨rfl, rfl, rfl⟩
    · exact hcleared (cfReadHeader_flags ht) ⟨rfl, rfl, rfl⟩
  · simp only [List.mem_cons, List.not_mem_nil, or_false] at hi
    obtain rfl | rfl | rfl | rfl := hi
    · exact congrArg Flags.hdr (ftClear_flags ht)
    · exact congrArg Flags.hdr (ftSet_flags ht)
    · exact congrArg Flags.hdr (freqScan_flags ht)
    · exact congrArg Flags.hdr (tbBuild_flags ht)
  · subst hi
    exact congrArg Flags.hdr (cfReadHeader_flags ht)
  · subst hi
    have hf := tbBuild_flags ht
    exact ⟨congrArg Flags.tree hf, congrArg Flags.codes hf, congrArg Flags.dec hf⟩
  · subst hi
    cases hvalid : s.tree.valid with
    | true =>
      have hf := cgGenerate_flags hvalid ht
      exact ⟨(congrArg Flags.tree hf).trans hvalid, congrArg Flags.dec hf, congrArg Flags.hdr hf,
        fun _ => congrArg Flags.codes hf⟩
    | false =>
      rw [((notReadyChangesNothing s).1 hvalid).1] at ht
      cases ht
      exact ⟨hvalid, rfl, rfl, nofun⟩
  · subst hi
    cases hvalid : s.tree.valid with
    | true =>
      rw [exec_decInit_of_tree hvalid] at ht
      cases ht
      exact ⟨hvalid, rfl, rfl, fun _ => rfl⟩
    | false =>
      rw [exec_decInit_of_no_tree hvalid] at ht
      cases ht
      exact ⟨hvalid, rfl, rfl, fun h => absurd h (by decide : ErrKind.notReady.code ≠ 0x00#8)⟩
  · have hf := silent_flags (by rw [silent, decide_eq_true hi]) ht
    exact ⟨congrArg Flags.tree hf, congrArg Flags.codes hf, congrArg Flags.dec hf, congrArg Flags.hdr hf⟩

end Sys2Proof.Machine
end

section
/-! The invariant of the machine (10_state.md R15, R16, R20, R21, R24, R26, R27): every command and every action of the host
keeps it, and where it holds no command is stuck and none finds a bad code table. -/
namespace Sys2Proof.Machine

/-! ### Writes that keep it -/

section
variable {s : State}

theorem Inv.setStatus (h : Inv s) {c : Byte} (hc : c ∈ legalStatus) : Inv (s.setStatus c) := { h with statusLegal := hc }

theorem Inv.setSeqStep (h : Inv s) {n : BitVec 4} (hn : n ≤ 8#4) : Inv (s.setSeqStep n) := { h with seqLegal := hn }

theorem Inv.setR0 (h : Inv s) (v : Word) : Inv (s.setR0 v) := { h with }

theorem Inv.setR1 (h : Inv s) (v : Word) : Inv (s.setR1 v) := { h with }

theorem Inv.setFt (h : Inv s) {ft : Vector FtEntry 256} (hft : FtCanonical ft) : Inv (s.setFt ft) :=
  { h with ftCanonical := hft }

theorem Inv.setQueue (h : Inv s) {q : Queue} (hq : (q.entries.map PqEntry.seq).Nodup ∧ ∀ e ∈ q.entries, e.seq < q.seq) :
    Inv (s.setQueue q) := { h with queueSeqs := hq }

theorem Inv.setBw (h : Inv s) {w : BitWriter} (hw : w.nbits ≠ 7#3 → w.Clean) : Inv (s.setBw w) :=
  { h with writerClean := hw }

theorem Inv.setBr (h : Inv s) {r : BitReader} (hr : r.left ≤ 8#4) : Inv (s.setBr r) := { h with brLeft := hr }

theorem Inv.setHdr (h : Inv s) (x : Header) : Inv (s.setHdr x) := { h with }

theorem Inv.setSrc (h : Inv s) {x : Stream} (hx : x.mem.wf) : Inv (s.setSrc x) := { h with inWf := hx }

theorem Inv.setSink (h : Inv s) {x : Stream} (hx : x.mem.wf) (hend : x.AtEnd) : Inv (s.setSink x) :=
  { h with outWf := hx, outCursor := hend }

theorem Inv.setEnv (h : Inv s) (e : Env) : Inv (s.setEnv e) := { h with }

theorem Inv.setDec (h : Inv s) {d : Decoder} (hd : d.valid = true → s.tree.valid = true ∧
    d.cur.toNat < s.tree.cnt.toNat ∧ (recordAt s.tree d.cur.toNat).kind = .internal) : Inv (s.setDec d) :=
  { h with decOnNode := hd }

theorem Inv.setCodes (h : Inv s) {c : Codes} (hc : c.valid = true → codesOk c.ct = true ∧ s.tree.valid = true) :
    Inv (s.setCodes c) := { h with codesChecked := hc }

theorem Inv.dropTree (h : Inv s) : Inv s.dropTree :=
  { h with treeInv := nofun, codesChecked := nofun, decOnNode := nofun }

/-- What TB_BUILD leaves. -/
theorem Inv.built (h : Inv s) {t : Tree} (ht : TreeInv t) (seq : Nat) : Inv (s.built t seq) :=
  { h with
    treeInv := fun _ => ht, codesChecked := nofun, decOnNode := nofun
    queueSeqs := ⟨List.nodup_nil, fun _ he => absurd he List.not_mem_nil⟩ }

theorem ftCanonical_ftEmpty : FtCanonical ftEmpty := counts_ftEmpty.canonical

theorem le_allOnes (x : BitVec 64) : x ≤ BitVec.allOnes 64 := by
  rw [BitVec.le_def, BitVec.toNat_allOnes]
  exact Nat.le_pred_of_lt x.isLt

theorem toNat_lt_of_ne_allOnes {x : BitVec 64} (h : x ≠ BitVec.allOnes 64) : x.toNat < 2 ^ 64 - 1 := by
  refine Nat.lt_of_le_of_ne (Nat.le_pred_of_lt x.isLt) fun heq => h (BitVec.eq_of_toNat_eq ?_)
  rw [BitVec.toNat_allOnes, heq]

/-- The cursor stays at the end where a byte is written, but for the free value past the last offset (log 9). -/
theorem Stream.AtEnd.append {x : Stream} (h : x.AtEnd) (e : Env) (v : Byte) : (x.append e v).AtEnd := by
  obtain ⟨hle, hend⟩ := h
  by_cases hlen : x.len = BitVec.allOnes 64
  · have hnot : ¬ x.len < nextOutPos e x.pos := by
      rw [hlen, BitVec.not_lt]
      exact le_allOnes _
    refine ⟨?_, fun hne => absurd ?_ hne⟩
    · show nextOutPos e x.pos ≤ if _ then _ else _
      rw [if_neg hnot, hlen]
      exact le_allOnes _
    · show (if _ then _ else _) = _
      rw [if_neg hnot, hlen]
  · have hpos := hend hlen
    have hlt : x.len.toNat < 2 ^ 64 - 1 := toNat_lt_of_ne_allOnes hlen
    obtain ⟨hp, hl, -⟩ := Stream.append_at_end (e := e) v hpos hlt
    rw [AtEnd, hp, hl]
    exact ⟨BitVec.le_refl _, fun _ => rfl⟩

theorem Inv.append (h : Inv s) (v : Byte) : Inv (s.setSink (s.sink.append s.env v)) :=
  h.setSink (Stream.append_wf _ v h.outWf) (h.outCursor.append _ v)

theorem Inv.insert (h : Inv s) (v : BitVec 16) (p : Word) : Inv (s.setQueue
    { entries := s.queue.entries ++ [{ value := v, prio := p, seq := s.queue.seq }], seq := s.queue.seq + 1 }) := by
  obtain ⟨hnodup, hlt⟩ := h.queueSeqs
  refine h.setQueue ⟨?_, fun e he => ?_⟩
  · rw [List.map_append, List.map_singleton]
    refine List.nodup_append.2 ⟨hnodup, List.nodup_singleton _, fun n hn m hm => ?_⟩
    obtain ⟨e, he, rfl⟩ := List.mem_map.1 hn
    rw [List.mem_singleton.1 hm]
    exact (hlt e he).ne
  · obtain he | he := List.mem_append.1 he
    · exact Nat.lt_succ_of_lt (hlt e he)
    · rw [List.mem_singleton.1 he]
      exact Nat.lt_succ_self _

theorem Inv.extract (h : Inv s) (e : PqEntry) :
    Inv (s.setQueue { s.queue with entries := s.queue.entries.erase e }) := by
  obtain ⟨hnodup, hlt⟩ := h.queueSeqs
  exact h.setQueue ⟨hnodup.sublist (List.erase_sublist.map _), fun f hf => hlt f (List.mem_of_mem_erase hf)⟩

end

/-! ### The sub-steps -/

/-- The stops a command ends with where the invariant holds. -/
def Sound : Stop → Prop
  | .raised e => e.code ∈ legalStatus ∧ e ≠ .internalCheckFailed
  | .ioFailed _ => True
  | .stuck _ => False

theorem sound_of_usual : ∀ e ∈ usualKinds, Sound (.raised e) := by
  show ∀ e ∈ usualKinds, e.code ∈ legalStatus ∧ e ≠ .internalCheckFailed
  decide

/-- The invariant, with a traversal or without. -/
def InvWith (v : Bool) (s : State) : Prop := Inv s ∧ s.dec.valid = v

theorem admits_invWith (v : Bool) : Admits (InvWith v) Sound where
  raise := sound_of_usual
  ioFailed _ _ _ _ _ := trivial
  badBit s h hbad := absurd h.1.brLeft (BitVec.not_le.2 hbad)
  ask _ h := ⟨h.1.setEnv _, h.2⟩
  seek _ _ h := ⟨h.1.setSrc h.1.inWf, h.2⟩
  append _ v h := ⟨h.1.append v, h.2⟩
  patch _ off v h := ⟨h.1.setSink (Stream.patch_wf off v h.1.outWf) h.1.outCursor, h.2⟩
  rewind _ h := ⟨h.1.setSink h.1.outWf ⟨BitVec.le_refl _, fun _ => rfl⟩, h.2⟩
  full _ _ h hn := ⟨h.1.setBw fun hne => absurd hn hne, h.2⟩
  push s b h := by
    refine ⟨h.1.setBw fun _ => ?_, h.2⟩
    by_cases hn : s.bw.nbits = 7#3
    · rw [BitWriter.push_of_full hn]
      exact clean_flushed _
    · exact (h.1.writerClean hn).push b
  flush _ h := ⟨h.1.setBw fun _ => clean_flushed _, h.2⟩
  newWriter _ h := ⟨h.1.setBw fun _ => clean_init, h.2⟩
  reader _ _ h hr := ⟨h.1.setBr hr, h.2⟩
  finish _ h := ⟨h.1.setBr h.1.brLeft, h.2⟩
  header _ x h _ := ⟨h.1.setHdr x, h.2⟩
  count _ x n h := ⟨h.1.setFt (ftCanonical_ftPut h.1.ftCanonical x n), h.2⟩
  newQueue _ h := ⟨h.1.setQueue ⟨List.nodup_nil, fun _ he => absurd he List.not_mem_nil⟩, h.2⟩
  insert _ v p h := ⟨h.1.insert v p, h.2⟩
  extract _ e h := ⟨h.1.extract e, h.2⟩

/-- What stays within the invariant with a traversal and without stays within it. -/
theorem stays_inv {α : Type} {c : Cmd α} (h : ∀ v, Stays (InvWith v) Sound c) : Stays Inv Sound c := fun s hs =>
  ends_mono (stays_exists h s ⟨s.dec.valid, hs, rfl⟩) (fun _ _ ⟨_, ht, _⟩ => ht) fun _ _ ⟨⟨_, ht, _⟩, he⟩ => ⟨ht, he⟩

theorem admits_inv : Admits Inv Sound where
  raise := sound_of_usual
  ioFailed _ _ _ _ _ := trivial
  badBit s h := (admits_invWith _).badBit s ⟨h, rfl⟩
  ask s h := ((admits_invWith _).ask s ⟨h, rfl⟩).1
  seek s p h := ((admits_invWith _).seek s p ⟨h, rfl⟩).1
  append _ v h := h.append v
  patch s off v h := ((admits_invWith _).patch s off v ⟨h, rfl⟩).1
  rewind s h := ((admits_invWith _).rewind s ⟨h, rfl⟩).1
  full s b h := ((admits_invWith _).full s b ⟨h, rfl⟩ · |>.1)
  push s b h := ((admits_invWith _).push s b ⟨h, rfl⟩).1
  flush s h := ((admits_invWith _).flush s ⟨h, rfl⟩).1
  newWriter s h := ((admits_invWith _).newWriter s ⟨h, rfl⟩).1
  reader _ _ h := h.setBr
  finish s h := ((admits_invWith _).finish s ⟨h, rfl⟩).1
  header _ x h _ := h.setHdr x
  count s x n h := ((admits_invWith _).count s x n ⟨h, rfl⟩).1
  newQueue s h := ((admits_invWith _).newQueue s ⟨h, rfl⟩).1
  insert _ v p h := h.insert v p
  extract _ e h := h.extract e

/-! ### The table, the tree and the codes -/

theorem inv_ftClear : Stays Inv Sound ftClear := stays_update fun _ h => h.dropTree.setFt ftCanonical_ftEmpty

theorem inv_ftSet (x : Byte) (c : Count) : Stays Inv Sound (ftSet x c) :=
  stays_update fun _ h => h.dropTree.setFt (ftCanonical_ftPut h.ftCanonical x c)

theorem inv_freqScan : Stays Inv Sound freqScan :=
  stays_bind inv_ftClear fun _ => stays_bind stays_getState fun _ => admits_inv.scanLoop _ _

theorem inv_cfReadHeader : Stays Inv Sound cfReadHeader := fun s hs => by
  have hclear : Inv (clearForHeader s) := (hs.dropTree.setHdr _).setFt ftCanonical_ftEmpty
  refine ends_mono (admits_inv.cfReadHeader hclear) (fun _ t ⟨u, hu, ht⟩ => ?_) fun _ _ h => h
  subst ht
  exact hu.setHdr _

/-- TB_BUILD is done before its tree is valid (10_state.md R26, R27). -/
theorem inv_tbBuild : Stays Inv Sound tbBuild := fun s hs => by
  by_cases hempty : presentSyms s.ft = []
  · exact ends_of_error (tbBuild_of_empty hempty) ⟨hs.dropTree, sound_of_usual _ (by decide)⟩
  · obtain ⟨t, seq, ht, -, htree, -⟩ := tbBuild_treeInv hempty
    exact ends_of_ok ht (hs.built htree seq)

/-- On a tree of 10_state.md R27 the check of the codes passes (43_code_generator.md R108). -/
theorem inv_cgGenerate : Stays Inv Sound cgGenerate := fun s hs => by
  cases hvalid : s.tree.valid with
  | true =>
    obtain ⟨T, hT, hshows, -⟩ := (hs.treeInv hvalid).exists_shape
    exact ends_of_ok (cgGenerate_of_shows hT hvalid hshows) (hs.setCodes fun _ => ⟨hT.codesOk, hvalid⟩)
  | false =>
    exact ends_of_error (Cmd.run_bind_error (need_of_clear hvalid)) ⟨hs, sound_of_usual _ (by decide)⟩

theorem inv_cgVerify : Stays Inv Sound cgVerify := fun s hs => by
  cases hvalid : s.codes.valid with
  | true => exact ends_of_ok ((cgVerify_of_codes hvalid).trans (checkCodes_of_ok (hs.codesChecked hvalid).1)) hs
  | false =>
    exact ends_of_error (Cmd.run_bind_error (need_of_clear hvalid)) ⟨hs, sound_of_usual _ (by decide)⟩

/-! ### The traversal -/

theorem TreeInv.cnt_le {t : Tree} : t.cnt.toNat ≤ 511 := Nat.le_of_lt_succ t.cnt.isLt

/-- The root of a valid tree is a node the traversal may stand on. -/
theorem Inv.root_internal {s : State} (h : Inv s) (hvalid : s.tree.valid = true) :
    s.tree.root.toNat < s.tree.cnt.toNat ∧ (recordAt s.tree s.tree.root.toNat).kind = .internal := by
  have htree := h.treeInv hvalid
  have hlast := htree.rootLast
  exact ⟨by omega, htree.rootInternal⟩

theorem inv_decInit : Stays Inv Sound decInit := fun s hs => by
  cases hvalid : s.tree.valid with
  | true => exact ends_of_ok (decInit_of_tree hvalid) (hs.setDec fun _ => ⟨hvalid, hs.root_internal hvalid⟩)
  | false => exact ends_of_error (decInit_of_no_tree hvalid) ⟨hs, sound_of_usual _ (by decide)⟩

theorem inv_emitSymbol (x : Byte) : Stays (InvWith true) Sound (emitSymbol x) :=
  stays_bind ((admits_invWith true).sinkByte x) fun _ => stays_bind (stays_update fun s hs => by
    obtain ⟨hinv, hdec⟩ := hs
    obtain ⟨hvalid, -⟩ := hinv.decOnNode hdec
    exact ⟨hinv.setDec fun _ => ⟨hvalid, hinv.root_internal hvalid⟩, hdec⟩) fun _ => stays_pure _

/-- A move to a child of the node the traversal stands on (48_decode_traversal.md R157). -/
theorem inv_descend {s : State} (hs : InvWith true s) {c : NodeIx}
    (hc : c.toNat < s.tree.cnt.toNat) : Ends (descend c) s (fun _ t => InvWith true t)
      (fun e t => InvWith true t ∧ Sound e) := by
  have hcnt := s.tree.cnt.isLt
  have hnode := nodeAt_eq_recordAt s.tree (i := c) (by omega)
  cases hk : (recordAt s.tree c.toNat).kind with
  | leaf =>
    cases hf : (recordAt s.tree c.toNat).filler with
    | true => exact ends_of_error (descend_of_filler hnode hk hf) ⟨hs, sound_of_usual _ (by decide)⟩
    | false => exact ends_of_eq (descend_of_leaf hnode hk hf) (inv_emitSymbol _ s hs)
  | internal =>
    refine ends_of_ok (descend_of_internal hnode hk) ⟨hs.1.setDec fun _ => ⟨(hs.1.decOnNode hs.2).1, hc, hk⟩, hs.2⟩

theorem inv_decStepBody : Stays (InvWith true) Sound decStepBody := fun s hs => by
  refine ends_bind_stays hs (admits_invWith true).decReadBit fun b t ht => ?_
  obtain ⟨hinv, hdec⟩ := ht
  obtain ⟨hvalid, hcur, hkind⟩ := hinv.decOnNode hdec
  have hcnt := t.tree.cnt.isLt
  have hnode := nodeAt_eq_recordAt t.tree (i := t.dec.cur) (by omega)
  refine ends_bind (ends_getState (ends_bind (ends_of_ok (readNode_of_nodeAt hnode) (inv_descend ⟨hinv, hdec⟩ ?_))))
  have hbelow := (hinv.treeInv hvalid).childrenBelow _ hcur
  rw [Node.children_of_internal hkind, List.forall_mem_cons, List.forall_mem_singleton] at hbelow
  obtain ⟨hl, hr⟩ := hbelow
  split
  · exact hr.trans hcur
  · exact hl.trans hcur

/-- A command that needs a traversal runs with one. -/
theorem inv_of_need {α : Type} {flag : State → Bool} {c : Unit → Cmd α} (hflag : ∀ s, flag s = true → s.dec.valid = true)
    (hc : Stays (InvWith true) Sound (c ())) : Stays Inv Sound (need flag >>= c) := fun s hs => by
  cases hf : flag s with
  | true =>
    refine ends_bind (ends_of_ok (need_of_set hf) ?_)
    exact ends_mono (hc s ⟨hs, hflag s hf⟩) (fun _ _ ht => ht.1) fun _ _ ⟨ht, he⟩ => ⟨ht.1, he⟩
  | false => exact ends_of_error (Cmd.run_bind_error (need_of_clear hf)) ⟨hs, sound_of_usual _ (by decide)⟩

theorem inv_decStep : Stays Inv Sound decStep := inv_of_need (fun _ h => h) inv_decStepBody

theorem inv_decStream : Stays Inv Sound decStream :=
  inv_of_need (fun _ h => (Bool.and_eq_true_iff.1 h).1) (stays_bind stays_getState fun _ => stays_decodeLoop inv_decStepBody _)

/-! ### The composite commands -/

theorem inv_seqStep {n : BitVec 4} (hn : n ≤ 8#4) : Stays Inv Sound (seqStep n) := stays_update fun _ h => h.setSeqStep hn

theorem inv_checkAlphabet : Stays Inv Sound checkAlphabet :=
  stays_bind (inv_seqStep (by decide)) fun _ => stays_bind stays_getState fun _ =>
    stays_ite (stays_raise (sound_of_usual _ (by decide))) (stays_bind (inv_seqStep (by decide)) fun _ =>
      stays_ite (stays_raise (sound_of_usual _ (by decide))) (stays_pure ()))

theorem inv_compress : Stays Inv Sound compress := by
  refine stays_bind (inv_seqStep (by decide)) fun _ => stays_bind admits_inv.srcOpen fun _ =>
    stays_bind inv_freqScan fun size => stays_bind inv_checkAlphabet fun _ => ?_
  refine stays_bind (inv_seqStep (by decide)) fun _ => stays_bind inv_tbBuild fun _ =>
    stays_bind inv_cgGenerate fun _ => stays_bind inv_cgVerify fun _ => ?_
  refine stays_bind (inv_seqStep (by decide)) fun _ => stays_bind admits_inv.sinkOpen fun _ =>
    stays_bind (admits_inv.cfWriteHeader _ size) fun _ => stays_bind (inv_seqStep (by decide)) fun _ => ?_
  refine stays_bind admits_inv.srcOpen fun _ => stays_bind admits_inv.bwInit fun _ =>
    stays_bind admits_inv.encodeStream fun _ => stays_bind (inv_seqStep (by decide)) fun _ => ?_
  exact stays_bind admits_inv.bwClose fun pad => stays_bind (inv_seqStep (by decide)) fun _ =>
    stays_bind (admits_inv.patchPadding pad) fun _ => inv_seqStep (by decide)

theorem seqOfStop_le (e : Stop) : seqOfStop e ≤ 7#4 := by
  cases e with
  | raised k => cases k <;> decide
  | ioFailed space => cases space <;> decide
  | stuck f => exact (by decide : (4#4 : BitVec 4) ≤ 7#4)

theorem inv_decStreamInSequence : Stays Inv Sound decStreamInSequence := fun s hs => by
  have hrun := inv_decStream s hs
  rw [Ends] at hrun ⊢
  rw [decStreamInSequence]
  cases hd : decStream s with
  | ok a t =>
    rw [hd] at hrun
    exact hrun
  | error e t =>
    rw [hd] at hrun
    exact ⟨hrun.1.setSeqStep (BitVec.le_trans (seqOfStop_le e) (by decide)), hrun.2⟩

theorem inv_decompress : Stays Inv Sound decompress := by
  refine stays_bind (inv_seqStep (by decide)) fun _ => stays_bind admits_inv.srcOpen fun _ =>
    stays_bind inv_cfReadHeader fun _ => stays_bind (inv_seqStep (by decide)) fun _ => ?_
  refine stays_bind admits_inv.checkHeader fun _ => stays_bind (inv_seqStep (by decide)) fun _ =>
    stays_bind inv_tbBuild fun _ => stays_bind (inv_seqStep (by decide)) fun _ => ?_
  exact stays_bind admits_inv.sinkOpen fun _ => stays_bind admits_inv.brInit fun _ =>
    stays_bind inv_decInit fun _ => stays_bind inv_decStreamInSequence fun _ => inv_seqStep (by decide)

/-! ### The machine -/

/-- The machine goes on, to a state of the invariant, and not with InternalCheckFailed. -/
def GoesOn (o : Host.Outcome State Fault Refusal) : Prop := ∃ t, o = .next t ∧ Inv t ∧ t.status ≠ 0x84#8

theorem code_ne_internalCheckFailed : ∀ e : ErrKind, e ≠ .internalCheckFailed → e.code ≠ 0x84#8 := fun e => by
  cases e <;> decide

theorem goesOn_of_stays {c : Cmd Unit} {s : State} (hc : Stays Inv Sound c) (hs : Inv s) : GoesOn (finish (c s)) := by
  obtain ⟨u, hu, hn⟩ | ⟨e, u, ⟨hu, hlegal, hne⟩, hn⟩ | ⟨sp, u, ⟨hu, -⟩, hn⟩ | ⟨f, u, ⟨-, hf⟩, -⟩ :=
    finish_of_ends (hc s hs)
  · exact ⟨_, hn, hu.setStatus (by decide), (by decide : statusOk ≠ 0x84#8)⟩
  · exact ⟨_, hn, hu.setStatus hlegal, code_ne_internalCheckFailed e hne⟩
  · exact ⟨_, hn, hu.setStatus (by decide), (by decide : ErrKind.ioError.code ≠ 0x84#8)⟩
  · exact hf.elim

theorem exec_goesOn (i : Instr) {s : State} (h : Inv s) : GoesOn (exec i s) := by
  have hs : Inv (s.setSeqStep 0#4) := h.setSeqStep (by decide)
  have hr0 (v : Word) : Stays Inv Sound (update fun u => u.setR0 v) := stays_update fun _ hu => hu.setR0 v
  have hgive (e : PqEntry) : Stays Inv Sound (giveEntry e) := stays_update fun _ hu => (hu.setR0 _).setR1 _
  cases i with
  | ftClear => exact goesOn_of_stays inv_ftClear hs
  | ftSet => exact goesOn_of_stays (inv_ftSet _ _) hs
  | freqScan => exact goesOn_of_stays (stays_bind inv_freqScan hr0) hs
  | srcOpen => exact goesOn_of_stays admits_inv.srcOpen hs
  | sinkOpen => exact goesOn_of_stays admits_inv.sinkOpen hs
  | pqInit => exact goesOn_of_stays admits_inv.pqInit hs
  | pqInsert => exact goesOn_of_stays (admits_inv.pqInsert _ _) hs
  | pqExtractMin => exact goesOn_of_stays (stays_bind admits_inv.pqExtractMin hgive) hs
  | pqPeek => exact goesOn_of_stays (stays_bind admits_inv.pqPeek hgive) hs
  | pqSize =>
    exact goesOn_of_stays (c := update fun u => u.setR0 (sizeWord u.queue.entries.length))
      (stays_update fun _ hu => hu.setR0 _) hs
  | pqIsEmpty =>
    exact goesOn_of_stays (c := update fun u => u.setR0 (if u.queue.entries.length = 0 then 1#64 else 0#64))
      (stays_update fun _ hu => hu.setR0 _) hs
  | tbBuild => exact goesOn_of_stays inv_tbBuild hs
  | cgGenerate => exact goesOn_of_stays inv_cgGenerate hs
  | cgVerify => exact goesOn_of_stays inv_cgVerify hs
  | bwInit => exact goesOn_of_stays admits_inv.bwInit hs
  | bwWriteBit => exact goesOn_of_stays (admits_inv.writeBit _) hs
  | bwWriteBits => exact goesOn_of_stays (admits_inv.bwWriteBits _ _) hs
  | bwClose => exact goesOn_of_stays (stays_bind admits_inv.bwClose fun _ => hr0 _) hs
  | brInit => exact goesOn_of_stays admits_inv.brInit hs
  | brReadBit => exact goesOn_of_stays (stays_bind admits_inv.readBit fun _ => hr0 _) hs
  | cfWriteHeader => exact goesOn_of_stays (admits_inv.cfWriteHeader _ _) hs
  | cfReadHeader => exact goesOn_of_stays inv_cfReadHeader hs
  | compress => exact goesOn_of_stays inv_compress h
  | encodeStream => exact goesOn_of_stays admits_inv.encodeStream hs
  | patchPadding => exact goesOn_of_stays (admits_inv.patchPadding _) hs
  | decompress => exact goesOn_of_stays inv_decompress h
  | decInit => exact goesOn_of_stays inv_decInit hs
  | decStep =>
    refine goesOn_of_stays (stays_bind inv_decStep fun o => ?_) hs
    cases o with
    | none => exact hr0 _
    | some x => exact stays_update fun _ hu => (hu.setR0 _).setR1 _
  | decStream => exact goesOn_of_stays inv_decStream hs

theorem Inv.illegalCommand {s : State} (h : Inv s) : Inv (illegalCommand s) :=
  (h.setSeqStep (by decide)).setStatus (by decide)

theorem Inv.resetEvent {s : State} (h : Inv s) : Inv (resetEvent s) :=
  { invReset with inWf := h.inWf, outWf := h.outWf }

/-- Every action of the host, and the command it may issue, keeps the invariant. -/
theorem step_inv {s : State} (h : Inv s) : ∃ t, step s = .next t ∧ Inv t := by
  match hh : s.host with
  | [] => exact ⟨s, step_idle hh, h⟩
  | .writeA v :: rest => exact ⟨_, step_writeA hh, { h with }⟩
  | .writeB v :: rest => exact ⟨_, step_writeB hh, { h with }⟩
  | .writeCmd c :: rest =>
    have htaken : Inv { s with cmd := c, host := rest } := { h with }
    cases hd : decode c with
    | ok i =>
      obtain ⟨t, ht, hinv, -⟩ := exec_goesOn i htaken
      exact ⟨t, (step_writeCmd hh hd).trans ht, hinv⟩
    | error r =>
      refine ⟨_, ?_, htaken.illegalCommand⟩
      rw [step, takeHost, hh]
      simp only [hd]
  | .writeInLen v :: rest => exact ⟨_, step_writeInLen hh, { h with }⟩
  | .writeIn off v :: rest => exact ⟨_, step_writeIn hh, { h with inWf := memWrite_wf v h.inWf off.isLt }⟩
  | .reset :: rest => exact ⟨_, step_reset hh, Inv.resetEvent { h with }⟩

/-- Settles O54: every sub-step keeps the invariant. -/
theorem invStep : Obligations.InvStep := by
  intro s t h ht
  obtain ⟨u, hu, hinv⟩ := step_inv h
  rw [hu] at ht
  cases ht
  exact hinv

/-- Settles O55: where the invariant holds no sub-step is stuck. -/
theorem everyCommandEnds : Obligations.EveryCommandEnds := by
  intro s h
  obtain ⟨t, ht, -⟩ := step_inv h
  exact ⟨t, ht⟩

/-- Settles O60: where the invariant holds the codes that are checked are those of a shape, or checked before. -/
theorem internalCheckNeverFails : Obligations.InternalCheckNeverFails := by
  intro i s t h ht
  obtain ⟨u, hu, -, hne⟩ := exec_goesOn i h
  rw [hu] at ht
  cases ht
  exact hne

end Sys2Proof.Machine
end

section
/-! BW_CLOSE after bits were sent (44_bit_writer.md R118, R119): the last byte, the padding, and the whole program of writes
that the host issues. -/
namespace Sys2Proof.Machine

/-! ### The last byte -/

/-- What BW_CLOSE sends: the byte in hand, where it holds a bit. -/
def BitWriter.rest (w : BitWriter) : List Byte := if w.nbits = 0#3 then [] else [w.cur]

/-- How many bits BW_CLOSE fills in. -/
def BitWriter.pad (w : BitWriter) : Byte := if w.nbits = 0#3 then 0#8 else 8#8 - w.nbits.setWidth 8

/-- The state after BW_CLOSE. -/
def State.closed (s : State) : State := (s.wrote s.bw.rest).setBw s.bw.flushed

theorem BitWriter.rest_of_aligned {w : BitWriter} (h : w.nbits = 0#3) : w.rest = [] := if_pos h

theorem BitWriter.rest_of_partial {w : BitWriter} (h : w.nbits ≠ 0#3) : w.rest = [w.cur] := if_neg h

theorem BitWriter.pad_toNat (w : BitWriter) : w.pad.toNat = (8 - w.nbits.toNat) % 8 := by
  by_cases h : w.nbits = 0#3
  · rw [pad, if_pos h, h]
    rfl
  · rw [pad, if_neg h]
    have hn := w.nbits.isLt
    have hne : w.nbits.toNat ≠ 0 := fun h0 => h (BitVec.eq_of_toNat_eq h0)
    simp only [BitVec.toNat_sub, BitVec.toNat_setWidth, BitVec.toNat_ofNat]
    omega

theorem BitWriter.length_rest (w : BitWriter) : w.rest.length = (w.nbits.toNat + 7) / 8 := by
  by_cases h : w.nbits = 0#3
  · rw [rest_of_aligned h, h]
    rfl
  · have hn := w.nbits.isLt
    have hne : w.nbits.toNat ≠ 0 := fun h0 => h (BitVec.eq_of_toNat_eq h0)
    rw [rest_of_partial h, List.length_singleton]
    omega

/-- A clean writer with no pending bit is empty. -/
theorem BitWriter.Clean.flushed_eq {w : BitWriter} (h : w.Clean) (h0 : w.nbits = 0#3) : w.flushed = w := by
  have hcur : w.cur = 0#8 := BitVec.eq_of_getLsbD_eq fun j hj => by
    rw [BitVec.getLsbD_zero]
    exact h j (by rw [h0]; exact hj)
  rw [flushed, ← hcur, ← h0]

theorem BitWriter.Clean.bits_rest {w : BitWriter} (h : w.Clean) :
    bytesBits w.rest = pendingBits w ++ List.replicate w.pad.toNat false := by
  rw [pad_toNat]
  by_cases h0 : w.nbits = 0#3
  · rw [rest_of_aligned h0, pendingBits, h0]
    rfl
  · have hn := w.nbits.isLt
    have hne : w.nbits.toNat ≠ 0 := fun heq => h0 (BitVec.eq_of_toNat_eq heq)
    rw [rest_of_partial h0, bytesBits_cur_of_clean h, Nat.mod_eq_of_lt (by omega)]

theorem bwClose_of_noneFails {s : State} (hclean : s.bw.Clean) (h : s.sink.Room s.bw.rest.length)
    (hio : NoneFails s (writeAsks s.sink.pos s.bw.rest.length)) : bwClose s = .ok s.bw.pad s.closed := by
  by_cases h0 : s.bw.nbits = 0#3
  · rw [bwClose_of_aligned h0, BitWriter.pad, if_pos h0, State.closed, BitWriter.rest_of_aligned h0,
      hclean.flushed_eq h0]
    rfl
  · rw [BitWriter.rest_of_partial h0] at h hio
    rw [List.length_singleton, writeAsks_succ] at hio
    have hfirst := ((noneFails_cons (t := s.failedAsk) rfl _ _).1 hio).1
    rw [bwClose_of_partial h0 (sinkByte_of_room (n := 0) s.bw.cur h hfirst), BitWriter.pad, if_neg h0, State.closed,
      BitWriter.rest_of_partial h0]
    rfl

theorem bwClose_of_firstFails {s : State} {k : Nat} (hio : FirstFails s (writeAsks s.sink.pos s.bw.rest.length) k) :
    k = 0 ∧ bwClose s = .error (.ioFailed .out) s.failedAsk := by
  by_cases h0 : s.bw.nbits = 0#3
  · rw [BitWriter.rest_of_aligned h0] at hio
    exact absurd hio.lt (Nat.not_lt_zero k)
  · rw [BitWriter.rest_of_partial h0, List.length_singleton] at hio
    have hk : k < 1 := by simpa using hio.lt
    obtain rfl : k = 0 := by omega
    rw [writeAsks_succ] at hio
    exact ⟨rfl, bwClose_of_partial_ioFails h0 ((firstFails_zero s _ _).1 hio)⟩

/-! ### A new writer -/

/-- The bytes into which bits are packed: those completed, then the last one. -/
def packedBytes (bits : List Bool) : List Byte :=
  BitWriter.init.emitAll bits ++ (BitWriter.init.pushAll bits).rest

section
variable (bits : List Bool)

theorem nbits_pushAll_init : (BitWriter.init.pushAll bits).nbits.toNat = bits.length % 8 := by
  rw [BitWriter.nbits_pushAll]
  exact congrArg (· % 8) (Nat.zero_add _)

theorem length_emitAll_init : (BitWriter.init.emitAll bits).length = bits.length / 8 := by
  rw [BitWriter.length_emitAll, BitWriter.sends]
  exact congrArg (· / 8) (Nat.zero_add _)

theorem pad_pushAll_init : (BitWriter.init.pushAll bits).pad = BitVec.ofNat 8 (padCount bits.length) := by
  refine BitVec.eq_of_toNat_eq ?_
  rw [BitWriter.pad_toNat, nbits_pushAll_init, BitVec.toNat_ofNat, padCount]
  omega

theorem flushed_pushAll_init :
    (BitWriter.init.pushAll bits).flushed = { cur := 0#8, nbits := 0#3, total := bits.length } := by
  rw [BitWriter.flushed, BitWriter.total_pushAll]
  exact congrArg (fun n => ({ cur := 0#8, nbits := 0#3, total := n } : BitWriter)) (Nat.zero_add _)

theorem length_rest_pushAll_init : (BitWriter.init.pushAll bits).rest.length = (bits.length % 8 + 7) / 8 := by
  rw [BitWriter.length_rest, nbits_pushAll_init]

theorem length_packedBytes : (packedBytes bits).length = (bits.length + 7) / 8 := by
  rw [packedBytes, List.length_append, length_emitAll_init, length_rest_pushAll_init]
  omega

/-- The bits most significant first, with zeros after the last (30_encoding.md R66). -/
theorem packs_packedBytes : Packs bits (packedBytes bits) := by
  have hpad : (BitWriter.init.pushAll bits).pad.toNat = padCount bits.length := by
    rw [pad_pushAll_init, BitVec.toNat_ofNat, padCount]
    omega
  rw [Packs, packedBytes, bytesBits_append, (clean_init.pushAll bits).bits_rest, ← List.append_assoc,
    BitWriter.bits_pushAll, hpad]
  rfl

end

/-- A byte is its bits. -/
theorem bytesBits_injective {as bs : List Byte} (h : bytesBits as = bytesBits bs) : as = bs := by
  have hlen := congrArg List.length h
  rw [length_bytesBits, length_bytesBits] at hlen
  induction as generalizing bs with
  | nil => exact (List.eq_nil_of_length_eq_zero (by simpa using hlen.symm)).symm
  | cons a as ih =>
    obtain _ | ⟨b, bs⟩ := bs
    · exact absurd hlen (by simp)
    · obtain ⟨hhead, htail⟩ := List.append_inj (show bytesBits [a] ++ bytesBits as = bytesBits [b] ++ bytesBits bs by
        rw [← bytesBits_append, ← bytesBits_append]; exact h) (by rw [length_bytesBits, length_bytesBits]; rfl)
      rw [ih htail (by simpa using hlen)]
      congr 1
      refine BitVec.eq_of_getLsbD_eq fun j hj => ?_
      have hbit := congrArg (fun l : List Bool => l[7 - j]?) hhead
      simpa [bytesBits, show 7 - j < 8 by omega, show 7 - (7 - j) = j by omega] using hbit

/-- Bits are packed in one way. -/
theorem Packs.eq {bits : List Bool} {bytes : List Byte} (h : Packs bits bytes) : bytes = packedBytes bits :=
  bytesBits_injective (h.trans (packs_packedBytes bits).symm)

/-! ### Room for a list of bits -/

theorem BitWriter.sends_add (w : BitWriter) (bits : List Bool) (n : Nat) :
    w.sends (bits.length + n) = (w.emitAll bits).length + (w.pushAll bits).sends n := by
  rw [length_emitAll, sends, sends, sends, nbits_pushAll]
  omega

theorem Stream.Room.sent {s : State} {bits : List Bool} {n : Nat}
    (h : s.sink.Room (s.bw.sends (bits.length + n))) :
    s.sink.Room (s.bw.sends bits.length) ∧ (s.sent bits).sink.Room ((s.sent bits).bw.sends n) ∧
      (s.sent bits).sink.pos = s.sink.pos + BitVec.ofNat 64 (s.bw.emitAll bits).length ∧
      (s.sent bits).env = askedMore s (s.bw.emitAll bits).length := by
  rw [BitWriter.sends_add] at h
  exact ⟨h.le (by rw [BitWriter.length_emitAll]; exact Nat.le_add_right _ _), h.putAll, pos_putAll h, rfl⟩

/-! ### The program -/

theorem run_add {M : Host.Core} {m n : Nat} {s t : M.State} (h : M.run m s = .next t) :
    M.run (m + n) s = M.run n t := by
  induction m generalizing s with
  | zero =>
    rw [Host.Core.run] at h
    cases h
    rw [Nat.zero_add]
  | succ m ih =>
    rw [Host.Core.run] at h
    rw [Nat.succ_add, Host.Core.run]
    cases hs : M.step s with
    | next u =>
      rw [hs] at h
      exact ih h
    | fault r =>
      rw [hs] at h
      cases h
    | refused r =>
      rw [hs] at h
      cases h

/-- Bits were sent between the two states; what else the host wrote is not said, but for what it has still to do. -/
structure SentBits (bits : List Bool) (rest : List HostAction) (s t : State) : Prop where
  host : t.host = rest
  bw : t.bw = (s.sent bits).bw
  sink : t.sink = (s.sent bits).sink
  env : t.env = (s.sent bits).env

theorem State.sent_congr {s t : State} (hbw : s.bw = t.bw) (hsink : s.sink = t.sink) (henv : s.env = t.env)
    (bits : List Bool) :
    (s.sent bits).bw = (t.sent bits).bw ∧ (s.sent bits).sink = (t.sent bits).sink ∧
      (s.sent bits).env = (t.sent bits).env := by
  simp only [State.sent, askedMore, hbw, hsink, henv, and_self]

theorem SentBits.trans {as bs : List Bool} {rest rest' : List HostAction} {s t u : State} (h : SentBits as rest s t)
    (h' : SentBits bs rest' t u) : SentBits (as ++ bs) rest' s u := by
  obtain ⟨hbw, hsink, henv⟩ := State.sent_congr h.bw h.sink h.env bs
  rw [← State.sent_append] at hbw hsink henv
  exact ⟨h'.host, h'.bw.trans hbw, h'.sink.trans hsink, h'.env.trans henv⟩

theorem sendBits_singleton (b : Bool) : sendBits [b] = writeBit b := by
  funext s
  show (writeBit b >>= fun _ => pure ()) s = _
  rw [Cmd.run_bind]
  cases writeBit b s <;> rfl

theorem format_line (w : BitWrite) : w.line.instr.format ≠ .n := by
  cases w with
  | bit b => exact (by decide : Format.a ≠ .n)
  | bits v n => exact (by decide : Format.ab ≠ .n)

/-- The command of the line sends the bits of the write. -/
theorem exec_line {w : BitWrite} (h : w.Fits) {s : State} (ha : s.a = BitVec.ofNat 256 w.line.fit.a)
    (hb : s.b = BitVec.ofNat 64 w.line.fit.b) : exec w.line.instr s = issue (sendBits w.sent) s := by
  cases w with
  | bit b =>
    have hop : opBit s = b := by
      rw [opBit, ha]
      cases b <;> rfl
    show issue (writeBit (opBit s)) s = _
    rw [hop, BitWrite.sent, sendBits_singleton]
  | bits v n =>
    have hn : n ≤ 256 := h
    have hva : s.a = v := by
      rw [ha]
      refine BitVec.eq_of_toNat_eq ?_
      rw [BitVec.toNat_ofNat]
      show v.toNat % 2 ^ 256 % 2 ^ 256 = _
      rw [Nat.mod_mod, Nat.mod_eq_of_lt v.isLt]
    have hnb : s.b.toNat = n := by
      rw [hb, BitVec.toNat_ofNat]
      show n % 2 ^ 64 % 2 ^ 64 = n
      omega
    exact (exec_bwWriteBits_eq (hnb.trans_le hn)).trans (by rw [hva, hnb]; rfl)

theorem run_write {s : State} {w : BitWrite} {rest : List HostAction} (hw : w.Fits)
    (h : s.host = lineActions w.line ++ rest) (hio : s.env.ioFaults = [])
    (hroom : s.sink.Room (s.bw.sends w.sent.length)) :
    ∃ t, Sys2Proof.core.run (lineActions w.line).length s = .next t ∧ SentBits w.sent rest s t := by
  rw [run_lineActions_of_operands (format_line w) h, exec_line hw rfl rfl]
  exact ⟨_, issue_of_ok (sendBits_of_noneFails hroom (noneFails_of_nil hio _)), rfl, rfl, rfl, rfl⟩

theorem run_writes {ws : List BitWrite} {s : State} {rest : List HostAction} (hws : ∀ w ∈ ws, w.Fits)
    (h : s.host = ws.flatMap (fun w => lineActions w.line) ++ rest) (hio : s.env.ioFaults = [])
    (hroom : s.sink.Room (s.bw.sends (ws.flatMap BitWrite.sent).length)) :
    ∃ t, Sys2Proof.core.run (ws.flatMap fun w => lineActions w.line).length s = .next t ∧
      SentBits (ws.flatMap BitWrite.sent) rest s t := by
  induction ws generalizing s with
  | nil => exact ⟨s, rfl, h, rfl, rfl, rfl⟩
  | cons w ws ih =>
    obtain ⟨hw, hws⟩ := List.forall_mem_cons.1 hws
    rw [List.flatMap_cons, List.append_assoc] at h
    rw [List.flatMap_cons, List.length_append] at hroom
    obtain ⟨hfirst, hnext, -, -⟩ := hroom.sent
    obtain ⟨t, hrun, ht⟩ := run_write hw h hio hfirst
    obtain ⟨u, hrest, hu⟩ := ih (s := t) hws ht.host (by rw [ht.env]; exact hio) (by rw [ht.bw, ht.sink]; exact hnext)
    rw [List.flatMap_cons, List.flatMap_cons, List.length_append]
    exact ⟨u, (run_add hrun).trans hrest, ht.trans hu⟩

/-- The lines after BW_INIT, from a new writer. -/
theorem run_writes_close {ws : List BitWrite} {u : State} (hws : ∀ w ∈ ws, w.Fits)
    (h : u.host = ws.flatMap (fun w => lineActions w.line) ++ lineActions { instr := .bwClose })
    (hbw : u.bw = BitWriter.init) (hio : u.env.ioFaults = [])
    (hroom : u.sink.Room (packedBytes (ws.flatMap BitWrite.sent)).length) :
    ∃ t, Sys2Proof.core.run ((ws.flatMap fun w => lineActions w.line).length + (lineActions { instr := .bwClose }).length)
        u = .next t ∧
      t.host = [] ∧ t.sink = u.sink.putAll (packedBytes (ws.flatMap BitWrite.sent)) ∧
      t.bw = (BitWriter.init.pushAll (ws.flatMap BitWrite.sent)).flushed ∧
      t.r0 = (BitWriter.init.pushAll (ws.flatMap BitWrite.sent)).pad.setWidth 64 ∧ t.status = statusOk := by
  generalize hbits : ws.flatMap BitWrite.sent = bits at hroom
  rw [packedBytes, List.length_append, BitWriter.length_emitAll, ← hbw] at hroom
  obtain ⟨t, hrun, ht⟩ := run_writes hws h hio (hroom.le (by rw [hbits]; exact Nat.le_add_right _ _))
  rw [hbits] at ht
  have hrest : t.sink.Room t.bw.rest.length := by
    rw [ht.sink, ht.bw]
    exact Stream.Room.putAll (by rwa [BitWriter.length_emitAll])
  have hclean : t.bw.Clean := by
    rw [ht.bw]
    exact (hbw ▸ clean_init : u.bw.Clean).pushAll bits
  have hfaults : t.env.ioFaults = [] := by
    rw [ht.env]
    exact hio
  have hclose := run_lineActions_of_n (l := { instr := .bwClose }) rfl
    (ht.host.trans (List.append_nil (lineActions { instr := .bwClose })).symm)
  rw [run_add hrun, hclose]
  refine ⟨_, exec_bwClose_of_ok (bwClose_of_noneFails hclean hrest (noneFails_of_nil hfaults _)), rfl, ?_, ?_, ?_, rfl⟩
  · show t.sink.putAll t.bw.rest = _
    rw [packedBytes, Stream.putAll_append, ht.sink, ht.bw, ← hbw]
    rfl
  · show t.bw.flushed = _
    rw [ht.bw, ← hbw]
    rfl
  · show t.bw.pad.setWidth 64 = _
    rw [ht.bw, ← hbw]
    rfl

/-- Settles O31: a new writer, the bits of every line in turn, and the last byte. -/
theorem bwPacksBits : Obligations.BwPacksBits := by
  intro s ws h hws hio hend hfits hwf
  have hlen := length_packedBytes (ws.flatMap BitWrite.sent)
  have hroom : s.sink.Room (packedBytes (ws.flatMap BitWrite.sent)).length := ⟨hend, by omega⟩
  have happ := appended_putAll hroom hwf
  rw [h, packProgram, List.append_assoc, List.length_append, List.length_append]
  rw [packProgram, List.append_assoc] at h
  rw [run_add ((run_lineActions_of_n (l := { instr := .bwInit }) rfl h).trans (exec_bwInit _))]
  obtain ⟨t, hrun, hhost, hsink, hbw, hr0, hstatus⟩ := run_writes_close hws
    (u := ended (State.setBw { s with cmd := encode .bwInit, host := _ } BitWriter.init) statusOk) rfl rfl hio hroom
  rw [flushed_pushAll_init] at hbw
  have happ : Appended s.sink _ t.sink := hsink.symm ▸ happ
  refine ⟨t, _, hrun, happ.outBytes, hlen, packs_packedBytes _, ?_, hbw, happ.atEnd, happ.wf, fun _ => happ.above, hstatus,
    hhost⟩
  rw [hr0, pad_pushAll_init]
  refine BitVec.eq_of_toNat_eq ?_
  simp only [BitVec.toNat_setWidth, BitVec.toNat_ofNat, padCount]
  omega

end Sys2Proof.Machine
end

section
/-! ENCODE_STREAM (47_compress_sequencer.md R144): the codes of the unread bytes, one byte after the other, up to the first
access that fails or the first byte without a code. -/
namespace Sys2Proof.Machine

/-! ### Bytes read and coded -/

theorem payloadBits_append (ct : Vector Code 256) (as bs : List Byte) :
    payloadBits ct (as ++ bs) = payloadBits ct as ++ payloadBits ct bs := List.flatMap_append

theorem payloadBits_singleton (ct : Vector Code 256) (v : Byte) : payloadBits ct [v] = codeBits (ctAt ct v) :=
  List.flatMap_singleton _ _

theorem length_codeBits (c : Code) : (codeBits c).length = c.len.toNat := length_patternBits _ _

/-- The state after these bytes were read and their codes sent. -/
def State.coded (s : State) (bs : List Byte) : State := (s.readPast bs.length).sent (payloadBits s.codes.ct bs)

/-- The accesses of coding these bytes. -/
def State.codingAsks (s : State) (bs : List Byte) : List Access :=
  encodeAsks s.codes.ct s.bw.nbits.toNat bs s.src.pos s.sink.pos

/-- OUT has room for the bytes that these bytes' codes complete, and for those of n bits more. -/
def State.CodingRoom (s : State) (bs : List Byte) (n : Nat) : Prop :=
  s.sink.Room (s.bw.sends ((payloadBits s.codes.ct bs).length + n))

@[simp] theorem State.coded_nil (s : State) : s.coded [] = s := s.readPast_zero

@[simp] theorem State.coded_codes (s : State) (bs : List Byte) : (s.coded bs).codes = s.codes := rfl

theorem State.sent_readPast (s : State) (bits : List Bool) (n : Nat) :
    (s.sent bits).readPast n = (s.readPast n).sent bits := by
  have he : askedMore (s.sent bits) n = askedMore (s.readPast n) (s.bw.emitAll bits).length := by
    simp only [askedMore, State.sent, State.readPast, State.setEnv, Nat.add_assoc, Nat.add_comm n]
  rw [State.readPast, he]
  rfl

theorem State.coded_append (s : State) (as bs : List Byte) : s.coded (as ++ bs) = (s.coded as).coded bs := by
  rw [State.coded, State.coded, State.coded_codes, State.coded, State.sent_readPast, State.readPast_readPast,
    ← State.sent_append, payloadBits_append, List.length_append]

theorem unread_coded {s : State} {as bs : List Byte} (h : unread s = as ++ bs) : unread (s.coded as) = bs := by
  have hlen : as.length ≤ (unread s).length := by rw [h, List.length_append]; exact Nat.le_add_right _ _
  exact (unread_readPast hlen).trans (by rw [h, List.drop_left])

section
variable {s : State} {as bs : List Byte} {n : Nat}

theorem State.CodingRoom.left (h : s.CodingRoom (as ++ bs) n) : s.CodingRoom as 0 :=
  Stream.Room.le h (Nat.div_le_div_right (Nat.add_le_add_left (by
    rw [payloadBits_append, List.length_append]
    omega) _))

theorem State.CodingRoom.coded (h : s.CodingRoom (as ++ bs) n) : (s.coded as).CodingRoom bs n := by
  rw [State.CodingRoom, payloadBits_append, List.length_append, Nat.add_assoc] at h
  exact (Stream.Room.sent (s := s.readPast as.length) h).2.1

theorem State.CodingRoom.toRoom (h : s.CodingRoom bs 0) : s.sink.Room (s.bw.sends (payloadBits s.codes.ct bs).length) := h

/-- Each code has at most 255 bits, which complete at most 32 bytes. -/
theorem codingRoom_of_fits (hend : s.sink.pos = s.sink.len) (h : s.sink.len.toNat + 32 * bs.length + 1 < 2 ^ 64) :
    s.CodingRoom bs 0 := by
  have hn := s.bw.nbits.isLt
  have hlen := length_payloadBits_le s.codes.ct bs
  refine ⟨hend, ?_⟩
  rw [BitWriter.sends]
  omega

/-! ### Accesses -/

theorem State.CodingRoom.pos_coded (h : s.CodingRoom as 0) :
    (s.coded as).sink.pos = s.sink.pos + BitVec.ofNat 64 (s.bw.emitAll (payloadBits s.codes.ct as)).length :=
  (Stream.Room.sent (s := s.readPast as.length) h).2.2.1

theorem nbits_coded (s : State) (bs : List Byte) :
    (s.coded bs).bw.nbits.toNat = (s.bw.nbits.toNat + (payloadBits s.codes.ct bs).length) % 8 :=
  BitWriter.nbits_pushAll _ _

theorem codingAsks_cons (v : Byte) (h : s.CodingRoom (v :: bs) 0) :
    s.codingAsks (v :: bs) =
      (.inp, s.src.pos) :: writeAsks s.sink.pos (s.bw.sends (codeBits (ctAt s.codes.ct v)).length) ++
        (s.coded [v]).codingAsks bs := by
  have hpos := (State.CodingRoom.left (as := [v]) h).pos_coded
  rw [payloadBits_singleton, BitWriter.length_emitAll, BitWriter.sends] at hpos
  have hn := nbits_coded s [v]
  rw [payloadBits_singleton, length_codeBits] at hn
  rw [State.codingAsks, State.codingAsks, encodeAsks, hpos, hn, BitWriter.sends, length_codeBits]
  rfl

theorem codingAsks_singleton (s : State) (v : Byte) :
    s.codingAsks [v] =
      (.inp, s.src.pos) :: writeAsks s.sink.pos (s.bw.sends (codeBits (ctAt s.codes.ct v)).length) := by
  rw [State.codingAsks, encodeAsks, encodeAsks, List.append_nil, BitWriter.sends, length_codeBits]

theorem codingAsks_append (h : s.CodingRoom (as ++ bs) 0) :
    s.codingAsks (as ++ bs) = s.codingAsks as ++ (s.coded as).codingAsks bs := by
  induction as generalizing s with
  | nil => rw [State.coded_nil]; rfl
  | cons v as ih =>
    have hnext : (s.coded [v]).CodingRoom (as ++ bs) 0 := State.CodingRoom.coded (as := [v]) h
    rw [List.cons_append, codingAsks_cons (bs := as ++ bs) v h, ih hnext, codingAsks_cons v (State.CodingRoom.left (bs := bs) h),
      List.append_assoc, ← State.coded_append]
    rfl

theorem length_encodeAsks (ct : Vector Code 256) (bs : List Byte) : ∀ n p q, n < 8 →
    (encodeAsks ct n bs p q).length = bs.length + (n + (payloadBits ct bs).length) / 8 := by
  induction bs with
  | nil =>
    intro n p q hn
    have hzero : n / 8 = 0 := Nat.div_eq_of_lt hn
    exact hzero.symm.trans (Nat.zero_add _).symm
  | cons v bs ih =>
    intro n p q _
    have hpay : (payloadBits ct (v :: bs)).length = (ctAt ct v).len.toNat + (payloadBits ct bs).length := by
      rw [payloadBits, List.flatMap_cons, List.length_append, length_codeBits]
      rfl
    rw [encodeAsks, List.length_append, ih _ _ _ (Nat.mod_lt _ (by decide)), List.length_cons, length_writeAsks, hpay, List.length_cons]
    omega

theorem length_codingAsks (s : State) (bs : List Byte) :
    (s.codingAsks bs).length = bs.length + (s.bw.emitAll (payloadBits s.codes.ct bs)).length := by
  rw [State.codingAsks, length_encodeAsks _ _ _ _ _ s.bw.nbits.isLt, BitWriter.length_emitAll, BitWriter.sends]

theorem env_coded (s : State) (bs : List Byte) : (s.coded bs).env = askedMore s (s.codingAsks bs).length := by
  rw [length_codingAsks]
  exact askedMore_askedMore (s := s) (t := s.readPast bs.length) rfl _

/-- The first access that fails is the read of a byte or a write of its code, after bytes of which none fails. -/
theorem firstFails_codingAsks {k : Nat} (hroom : s.CodingRoom bs 0) (h : FirstFails s (s.codingAsks bs) k) :
    ∃ done v rest j, bs = done ++ v :: rest ∧ NoneFails s (s.codingAsks done) ∧ k = (s.codingAsks done).length + j ∧
      FirstFails (s.coded done) ((s.coded done).codingAsks [v]) j := by
  induction bs using List.reverseRecOn with
  | nil => exact absurd h.lt (Nat.not_lt_zero k)
  | append_singleton bs v ih =>
    rw [codingAsks_append hroom] at h
    obtain h | ⟨hnone, j, rfl, hj⟩ := h.append_cases (env_coded s bs)
    · obtain ⟨done, w, rest, j, rfl, hdone⟩ := ih hroom.left h
      exact ⟨done, w, rest ++ [v], j, by simp, hdone⟩
    · exact ⟨bs, v, [], j, rfl, hnone, rfl, hj⟩

/-! ### The loop -/

/-- A pass over a byte that has a code. -/
theorem encodeLoop_pass {v : Byte} {vs : List Byte} (k : Nat) (h : unread s = v :: vs)
    (hv : (ctAt s.codes.ct v).valid = true) (hio : ioFails s.env .inp s.src.pos = false) :
    encodeLoop (k + 1) s =
      (sendBits (codeBits (ctAt s.codes.ct v)) >>= fun _ => encodeLoop k) (s.readPast 1) := by
  have hbyte : encodeByte v (s.readPast 1) = sendBits (codeBits (ctAt s.codes.ct v)) (s.readPast 1) := by
    rw [encodeByte_eq, codeBits, ← writeBits_eq_sendBits]
    exact if_pos hv
  rw [encodeLoop_succ, srcByte_of_unread h hio]
  show (encodeByte v >>= fun _ => encodeLoop k) (s.readPast 1) = _
  rw [Cmd.run_bind, Cmd.run_bind, hbyte]

/-- The asks of one byte. -/
theorem noneFails_codingAsks_singleton {v : Byte} : NoneFails s (s.codingAsks [v]) ↔
    ioFails s.env .inp s.src.pos = false ∧
      NoneFails (s.readPast 1) (writeAsks s.sink.pos (s.bw.sends (codeBits (ctAt s.codes.ct v)).length)) := by
  rw [codingAsks_singleton, noneFails_cons (t := s.readPast 1) rfl]

theorem encodeLoop_one {v : Byte} {vs : List Byte} (k : Nat) (h : unread s = v :: vs)
    (hv : (ctAt s.codes.ct v).valid = true) (hroom : s.CodingRoom [v] 0) (hio : NoneFails s (s.codingAsks [v])) :
    encodeLoop (k + 1) s = encodeLoop k (s.coded [v]) := by
  obtain ⟨hread, hwrites⟩ := noneFails_codingAsks_singleton.1 hio
  have hroom : s.sink.Room (s.bw.sends (codeBits (ctAt s.codes.ct v)).length) :=
    payloadBits_singleton s.codes.ct v ▸ hroom.toRoom
  rw [encodeLoop_pass k h hv hread, Cmd.run_bind_ok (sendBits_of_noneFails (s := s.readPast 1) hroom hwrites),
    State.coded, payloadBits_singleton]
  rfl

/-- The loop over bytes that have codes. -/
theorem encodeLoop_of_noneFails (k : Nat) (h : unread s = as ++ bs) (hv : ∀ v ∈ as, (ctAt s.codes.ct v).valid = true)
    (hroom : s.CodingRoom as 0) (hio : NoneFails s (s.codingAsks as)) :
    encodeLoop (as.length + k) s = encodeLoop k (s.coded as) := by
  induction as generalizing s with
  | nil => rw [State.coded_nil, List.length_nil, Nat.zero_add]
  | cons v as ih =>
    obtain ⟨hvalid, hv⟩ := List.forall_mem_cons.1 hv
    have hroom : s.CodingRoom ([v] ++ as) 0 := hroom
    have hio : NoneFails s (s.codingAsks ([v] ++ as)) := hio
    rw [codingAsks_append hroom] at hio
    have hrest := ih (s := s.coded [v]) (unread_coded (as := [v]) h) hv hroom.coded (hio.append_right (env_coded s [v]))
    rw [List.length_cons, Nat.add_right_comm, encodeLoop_one _ h hvalid hroom.left hio.append_left, hrest,
      ← State.coded_append]
    rfl

end

section
variable {s : State} {k : Nat}

theorem encodeStream_eq (h : s.codes.valid = true) : encodeStream s = encodeLoop (unread s).length s := by
  rw [length_unread]
  exact (Cmd.run_bind_ok (need_of_set (flag := hasCodes) h)).trans (Cmd.run_bind_ok (Cmd.run_getState s))

theorem encodeStream_of_noneFails (h : s.codes.valid = true) (hv : ∀ v ∈ unread s, (ctAt s.codes.ct v).valid = true)
    (hroom : s.CodingRoom (unread s) 0) (hio : NoneFails s (s.codingAsks (unread s))) :
    encodeStream s = .ok () (s.coded (unread s)) := by
  have hloop := encodeLoop_of_noneFails (as := unread s) (bs := []) 0 (List.append_nil _).symm hv hroom hio
  exact (encodeStream_eq h).trans hloop

/-- The first byte without a code. -/
theorem encodeStream_of_missing {done rest : List Byte} {v : Byte} (h : s.codes.valid = true)
    (hun : unread s = done ++ v :: rest) (hv : ∀ x ∈ done, (ctAt s.codes.ct x).valid = true)
    (hmiss : (ctAt s.codes.ct v).valid = false) (hroom : s.CodingRoom done 0) (hio : NoneFails s (s.codingAsks done))
    (hread : ioFails (s.coded done).env .inp (s.coded done).src.pos = false) :
    encodeStream s = .error (.raised .missingCode) ((s.coded done).readPast 1) := by
  have hloop := encodeLoop_of_noneFails (rest.length + 1) hun hv hroom hio
  rw [encodeStream_eq h, hun, List.length_append, List.length_cons, hloop, encodeLoop_succ,
    srcByte_of_unread (unread_coded hun) hread]
  refine Cmd.run_bind_error ?_
  rw [encodeByte_eq]
  exact if_neg (ne_true_of_eq_false hmiss)

/-- A failed read. -/
theorem encodeStream_of_read_ioFails {done rest : List Byte} {v : Byte} (h : s.codes.valid = true)
    (hun : unread s = done ++ v :: rest) (hv : ∀ x ∈ done, (ctAt s.codes.ct x).valid = true)
    (hroom : s.CodingRoom done 0) (hio : NoneFails s (s.codingAsks done))
    (hread : ioFails (s.coded done).env .inp (s.coded done).src.pos = true) :
    encodeStream s = .error (.ioFailed .inp) (s.coded done).failedAsk := by
  have hloop := encodeLoop_of_noneFails (rest.length + 1) hun hv hroom hio
  rw [encodeStream_eq h, hun, List.length_append, List.length_cons, hloop, encodeLoop_succ,
    srcByte_of_unread_ioFails (unread_coded hun) hread]

/-- A failed write: the code of the byte is sent up to the bit that completes the byte not written. -/
theorem encodeStream_of_write_ioFails {done rest : List Byte} {v : Byte} (h : s.codes.valid = true)
    (hun : unread s = done ++ v :: rest) (hv : ∀ x ∈ done ++ [v], (ctAt s.codes.ct x).valid = true)
    (hroom : s.CodingRoom (done ++ [v]) 0) (hio : NoneFails s (s.codingAsks done))
    (hfail : FirstFails (s.coded done) ((s.coded done).codingAsks [v]) (k + 1)) :
    ∃ pre b post, codeBits (ctAt s.codes.ct v) = pre ++ b :: post ∧
      ((s.coded done).bw.pushAll pre).nbits = 7#3 ∧ ((s.coded done).bw.emitAll pre).length = k ∧
      encodeStream s = .error (.ioFailed .out) ((((s.coded done).readPast 1).sent pre).stalled b) := by
  rw [List.forall_mem_append, List.forall_mem_singleton] at hv
  have hloop := encodeLoop_of_noneFails (rest.length + 1) hun hv.1 hroom.left hio
  rw [codingAsks_singleton, firstFails_succ (t := (s.coded done).readPast 1) rfl] at hfail
  obtain ⟨hread, hfail⟩ := hfail
  have hlast : (s.coded done).sink.Room ((s.coded done).bw.sends (codeBits (ctAt s.codes.ct v)).length) :=
    payloadBits_singleton s.codes.ct v ▸ hroom.coded.toRoom
  obtain ⟨pre, b, post, hbits, hn, hlen, hrun⟩ := sendBits_of_firstFails (s := (s.coded done).readPast 1) hlast hfail
  refine ⟨pre, b, post, hbits, hn, hlen, ?_⟩
  rw [encodeStream_eq h, hun, List.length_append, List.length_cons, hloop,
    encodeLoop_pass _ (unread_coded hun) hv.2 hread]
  exact Cmd.run_bind_error hrun

/-! ### ENCODE_STREAM -/

theorem State.sent_coded_readPast (s : State) (done : List Byte) (pre : List Bool) :
    ((s.coded done).readPast 1).sent pre =
      (s.readPast (done.length + 1)).sent (payloadBits s.codes.ct done ++ pre) := by
  rw [State.coded, State.sent_readPast, State.readPast_readPast, State.sent_append]

/-- What the access at which a byte's coding fails is: the byte's read or a write of its code. -/
theorem codingAsks_at {done rest : List Byte} {v : Byte} {j : Nat} (hroom : s.CodingRoom (done ++ v :: rest) 0)
    (hj : j < ((s.coded done).codingAsks [v]).length) :
    readCount ((s.codingAsks (done ++ v :: rest)).take ((s.codingAsks done).length + j)) =
        done.length + (if j = 0 then 0 else 1) ∧
      ((s.codingAsks (done ++ v :: rest))[(s.codingAsks done).length + j]?).map Prod.fst =
        some (if j = 0 then .inp else .out) := by
  have hnext : (s.coded done).CodingRoom ([v] ++ rest) 0 := hroom.coded
  have hdone : readCount (s.codingAsks done) = done.length := readCount_encodeAsks _ _ _ _ _
  rw [codingAsks_append hroom, show v :: rest = [v] ++ rest from rfl, codingAsks_append hnext, List.take_length_add_append,
    readCount_append, hdone, List.getElem?_append_right (Nat.le_add_right _ _), Nat.add_sub_cancel_left,
    List.take_append_of_le_length hj.le, List.getElem?_append_left hj]
  rw [codingAsks_singleton] at hj ⊢
  cases j with
  | zero => exact ⟨rfl, rfl⟩
  | succ j =>
    generalize (s.coded done).bw.sends _ = m at hj ⊢
    rw [List.length_cons, length_writeAsks, Nat.succ_lt_succ_iff] at hj
    obtain ⟨i, rfl⟩ := Nat.exists_eq_add_of_lt hj
    rw [Nat.add_assoc, writeAsks_append, List.take_succ_cons, List.take_left' (length_writeAsks _ _), List.getElem?_cons_succ,
      List.getElem?_append_right (length_writeAsks _ _).le, length_writeAsks, Nat.sub_self, writeAsks_succ]
    have hone (p : Word) (as : List Access) : readCount ((.inp, p) :: as) = readCount as + 1 := by simp [readCount]
    rw [hone, readCount_writeAsks]
    exact ⟨rfl, rfl⟩

theorem State.ended_sent_readPast (s : State) (n : Nat) (bits : List Bool) (v : Byte) :
    (((s.setSeqStep 0#4).readPast n).sent bits).setStatus v = ended
      { s with
        bw := s.bw.pushAll bits, sink := s.sink.putAll (s.bw.emitAll bits),
        src := { s.src with pos := s.src.pos + BitVec.ofNat 64 n },
        env := askedMore s (n + (s.bw.emitAll bits).length) } v := by
  rw [← askedMore_askedMore (s := s) (t := s.readPast n) rfl]
  rfl

theorem State.ended_failed_sent_readPast (s : State) (n : Nat) (bits : List Bool) (w : BitWriter) (v : Byte) {k : Nat}
    (hk : n + (s.bw.emitAll bits).length = k) :
    ((((((s.setSeqStep 0#4).readPast n).sent bits).setBw w).failedAsk).setStatus v) = ended
      { s with
        bw := w, sink := s.sink.putAll (s.bw.emitAll bits),
        src := { s.src with pos := s.src.pos + BitVec.ofNat 64 n }, env := askedMore s (k + 1) } v := by
  have he : askedMore s (k + 1) = ((s.readPast n).sent bits).env.countAsk :=
    hk ▸ (askedMore_askedMore (s := s) (t := (s.readPast n).sent bits)
      (askedMore_askedMore (s := s) (t := s.readPast n) rfl _) 1).symm
  rw [he]
  rfl

/-- Settles O42: every byte in turn, or those before the access that fails. -/
theorem encodeStreamWrites : Obligations.EncodeStreamWrites := by
  rintro s asks hc hend hfits hwf rfl
  have hroom : s.CodingRoom (unread s) 0 := codingRoom_of_fits hend hfits
  refine ⟨fun hio hv => ?_, fun k r hio hr hv => ?_⟩
  · have happ := appended_sent (s := s.readPast (unread s).length) hroom.toRoom hwf
    refine ⟨_, _, issue_of_ok (encodeStream_of_noneFails (s := s.setSeqStep 0#4) hc hv hroom hio), happ.outBytes,
      s.bw.bits_pushAll _, s.bw.total_pushAll _, fun h => h.pushAll _, happ.atEnd, happ.wf, fun _ => happ.above, ?_⟩
    exact s.ended_sent_readPast _ _ _
  · obtain ⟨done, v, rest, j, hun, hnone, rfl, hj⟩ := firstFails_codingAsks hroom hio
    have hlen := length_codingAsks s done
    have hdone : s.CodingRoom (done ++ v :: rest) 0 := hun ▸ hroom
    obtain ⟨hreads, hkind⟩ := codingAsks_at hdone hj.lt
    have hdone1 : s.CodingRoom ((done ++ [v]) ++ rest) 0 := by rwa [List.append_assoc]
    rw [← hun] at hreads hkind
    have hr : r = done.length + (if j = 0 then 0 else 1) := hr.trans hreads
    cases j with
    | zero =>
      obtain rfl : r = done.length := hr
      have hv : ∀ x ∈ done, (ctAt s.codes.ct x).valid = true := by
        rwa [hun, List.take_left] at hv
      have happ := appended_sent (s := s.readPast done.length) hdone.left.toRoom hwf
      have hread := (firstFails_zero _ _ _).1 (codingAsks_singleton (s.coded done) v ▸ hj)
      refine ⟨_, _, issue_of_error_io (encodeStream_of_read_ioFails (s := s.setSeqStep 0#4) hc hun hv hdone.left hnone
        hread), happ.outBytes, ?_, fun _ => ?_, fun hout => ?_, happ.atEnd, happ.wf, fun _ => happ.above,
        s.ended_failed_sent_readPast done.length _ _ _ hlen.symm⟩
      · rw [hlen]
        exact (Nat.add_sub_cancel_left _ _).symm
      · rw [hun, List.take_left]
        exact ⟨s.bw.bits_pushAll _, s.bw.total_pushAll _, fun h => h.pushAll _⟩
      · cases hkind.symm.trans hout
    | succ j =>
      obtain rfl : r = done.length + 1 := hr
      have htake : (unread s).take (done.length + 1) = done ++ [v] := by
        rw [hun, List.take_length_add_append]
        rfl
      rw [htake] at hv ⊢
      obtain ⟨pre, b, post, hbits, hn, hk, hrun⟩ := encodeStream_of_write_ioFails (s := s.setSeqStep 0#4) hc hun hv
        hdone1.left hnone hj
      have hbits : codeBits (ctAt s.codes.ct v) = pre ++ b :: post := hbits
      have hpay : payloadBits s.codes.ct (done ++ [v]) = (payloadBits s.codes.ct done ++ pre) ++ b :: post := by
        rw [payloadBits_append, payloadBits_singleton, hbits, List.append_assoc]
      have hn : (s.bw.pushAll (payloadBits s.codes.ct done ++ pre)).nbits = 7#3 := by
        rw [BitWriter.pushAll_append]
        exact hn
      have hsent : (s.bw.emitAll (payloadBits s.codes.ct done ++ pre)).length =
          (s.bw.emitAll (payloadBits s.codes.ct done)).length + j := by
        rw [← hk, BitWriter.emitAll_append, List.length_append]
        rfl
      have hcount : (s.bw.emitAll (payloadBits s.codes.ct done ++ pre)).length =
          (s.codingAsks done).length + (j + 1) - (done.length + 1) := by omega
      have htotal : done.length + 1 + (s.bw.emitAll (payloadBits s.codes.ct done ++ pre)).length =
          (s.codingAsks done).length + (j + 1) := by omega
      rw [State.sent_coded_readPast] at hrun
      have hroom1 := hdone1.left.toRoom
      rw [hpay] at hroom1 ⊢
      have happ := appended_sent (s := s.readPast (done.length + 1)) (hroom1.le BitWriter.sends_le_of_prefix) hwf
      refine ⟨_, _, issue_of_error_io hrun, happ.outBytes, ?_, fun hin => ?_, fun _ => ?_, happ.atEnd, happ.wf,
        fun _ => happ.above, s.ended_failed_sent_readPast (done.length + 1) _ _ _ ?_⟩
      · exact hcount
      · cases hkind.symm.trans hin
      · exact ⟨(bits_stalled hn).1, hn, total_stalled b hn⟩
      · exact htotal

/-- Settles O43: the bytes before the first without a code, then its read. -/
theorem encodeStreamMissingCode : Obligations.EncodeStreamMissingCode := by
  intro s done rest v hc hun hv hmiss hend hfits hwf hio
  have hroom : s.CodingRoom done 0 := codingRoom_of_fits hend hfits
  have hread : ioFails (s.coded done).env .inp (s.coded done).src.pos = false :=
    ((noneFails_cons (t := (s.coded done).failedAsk) rfl _ _).1 (hio.append_right (env_coded s done))).1
  have happ := appended_sent (s := s.readPast (done.length + 1)) hroom.toRoom hwf
  have hrun := encodeStream_of_missing (s := s.setSeqStep 0#4) hc hun hv hmiss hroom hio.append_left hread
  rw [State.coded, State.sent_readPast, State.readPast_readPast] at hrun
  exact ⟨_, _, issue_of_raised hrun, happ.outBytes, s.bw.bits_pushAll _, s.bw.total_pushAll _, fun h => h.pushAll _,
    happ.atEnd, happ.wf, fun _ => happ.above, s.ended_sent_readPast _ _ _⟩

end

end Sys2Proof.Machine
end

section
/-! What COMPRESS hands from one step to the next (47_compress_sequencer.md R141): the table of the counts, and the tree and
queue that TB_BUILD makes of a table on one arena. -/
namespace Sys2Proof.Machine

/-! ### The table -/

theorem Counts.entriesOf_eq {ft : Vector FtEntry 256} {bs : List Byte} (h : Counts ft bs) : entriesOf ft = countsOf bs := by
  have hsyms : presentSyms ft = distinctSyms bs :=
    List.filter_congr fun x _ => by rw [h x]
  rw [entriesOf, countsOf, hsyms]
  exact List.map_congr_left fun x _ => by rw [h x]

/-- The table of an input's counts is that of its entries. -/
theorem Counts.eq_tableOf {ft : Vector FtEntry 256} {bs : List Byte} (h : Counts ft bs) : ft = tableOf (countsOf bs) := by
  rw [← h.entriesOf_eq, tableOf_entriesOf h.canonical]

theorem Counts.ftN_eq {ft : Vector FtEntry 256} {bs : List Byte} (h : Counts ft bs) : ftN ft = (distinctSyms bs).length := by
  rw [← length_entriesOf, h.entriesOf_eq, countsOf, List.length_map]

theorem exists_counts (bs : List Byte) : ∃ ft, Counts ft bs := by
  refine ⟨Vector.ofFn fun i => { present := decide (BitVec.ofNat 8 i ∈ bs),
                                  count := BitVec.ofNat 32 (bs.count (BitVec.ofNat 8 i)) }, fun x => ?_⟩
  rw [ftAt, Vector.getElem_ofFn, BitVec.ofNat_toNat, BitVec.setWidth_eq]

theorem counts_tableOf (bs : List Byte) : Counts (tableOf (countsOf bs)) bs := by
  obtain ⟨ft, h⟩ := exists_counts bs
  rwa [← h.eq_tableOf]

/-! ### The tree -/

theorem SameBuild.tree_eq {s u : State} (h : SameBuild s u) (hvalid : s.tree.valid = u.tree.valid)
    (habove : ∀ j, s.tree.cnt.toNat ≤ j → s.tree.node[j]? = u.tree.node[j]?) : s.tree = u.tree := by
  have hnode : s.tree.node = u.tree.node := by
    refine Vector.ext fun j hj => ?_
    obtain hlt | hle := Nat.lt_or_ge j s.tree.cnt.toNat
    · have hrec := h.records j hlt
      rwa [recordAt, recordAt, Vector.getElem?_eq_getElem hj, Vector.getElem?_eq_getElem hj] at hrec
    · have hrec := habove j hle
      rw [Vector.getElem?_eq_getElem hj, Vector.getElem?_eq_getElem hj] at hrec
      exact Option.some.inj hrec
  have hcnt := h.cnt
  have hroot := h.root
  revert hnode hcnt hroot hvalid
  cases s.tree
  cases u.tree
  rintro rfl rfl rfl rfl
  rfl

/-- TB_BUILD makes one tree of one table on one arena, whatever else the state holds (42_tree_builder.md R102). -/
theorem tbBuild_congr {s u : State} (hft : s.ft = u.ft) (hrank : s.env.tieRank = u.env.tieRank)
    (hnode : s.tree.node = u.tree.node) (hne : presentSyms s.ft ≠ []) :
    ∃ (t : Tree) (seq : Nat), tbBuild s = .ok () (s.built t seq) ∧ tbBuild u = .ok () (u.built t seq) ∧ t.valid = true ∧
      TreeInv t := by
  match hxs : presentSyms s.ft with
  | [] => exact absurd hxs hne
  | [x] =>
    refine ⟨_, _, tbBuild_of_single hxs, ?_, rfl, treeInv_singleTree _ _ _⟩
    rw [tbBuild_of_single (hft ▸ hxs), hnode, hft]
  | x :: y :: xs =>
    have htwo : 2 ≤ ftN s.ft := by
      rw [ftN, hxs, List.length_cons, List.length_cons]
      omega
    obtain ⟨t, ht, hvalid, htree⟩ := tbBuild_general htwo
    obtain ⟨t', ht', hvalid', htree'⟩ := tbBuild_general (s := u) (hft ▸ htwo)
    have halike := endAlike_tbBuild hft hrank hne
    rw [ht, ht'] at halike
    have hsame := halike.of_ok
    obtain rfl : t = t' := hsame.tree_eq (hvalid.trans hvalid'.symm) fun j hj =>
      (htree.above j hj).trans ((congrArg (·[j]?) hnode).trans (htree'.above j (hsame.cnt ▸ hj)).symm)
    exact ⟨t, _, ht, ht', hvalid, htree.treeInv htwo (presentSyms_nodup _)⟩

end Sys2Proof.Machine
end

section
/-! The accesses of a sequence of steps (20_memory.md R56): the step that asks the first access that fails, and the writes
before it. -/
namespace Sys2Proof.Machine

/-- How many of the first k accesses are writes. -/
def writesBefore (asks : List Access) (k : Nat) : Nat := k - readCount (asks.take k)

theorem readCount_le_length (asks : List Access) : readCount asks ≤ asks.length := List.countP_le_length

theorem writesBefore_append_left {as : List Access} (bs : List Access) {k : Nat} (h : k ≤ as.length) :
    writesBefore (as ++ bs) k = writesBefore as k := by
  rw [writesBefore, List.take_append_of_le_length h, writesBefore]

theorem writesBefore_append (as bs : List Access) (k : Nat) :
    writesBefore (as ++ bs) (as.length + k) = writesBefore as as.length + writesBefore bs k := by
  have has := readCount_le_length as
  have hbs := (readCount_le_length (bs.take k)).trans (List.length_take_le k bs)
  rw [writesBefore, List.take_length_add_append, readCount_append, writesBefore, List.take_length, writesBefore]
  omega

theorem writesBefore_readAsks (pos : Word) (n : Nat) : writesBefore (readAsks pos n) (readAsks pos n).length = 0 := by
  rw [writesBefore, List.take_length, readCount_readAsks, length_readAsks, Nat.sub_self]

theorem writesBefore_writeAsks {pos : Word} {n k : Nat} (h : k ≤ n) : writesBefore (writeAsks pos n) k = k := by
  obtain ⟨m, rfl⟩ := Nat.exists_eq_add_of_le h
  rw [writesBefore, writeAsks_append, List.take_left' (length_writeAsks _ _), readCount_writeAsks, Nat.sub_zero]

/-- The accesses of one step of a composite command, with its number. -/
def stepAsks (n : BitVec 4) (asks : List Access) : List (BitVec 4 × Access) := asks.map (Prod.mk n)

@[simp] theorem length_stepAsks (n : BitVec 4) (asks : List Access) : (stepAsks n asks).length = asks.length :=
  List.length_map _

theorem map_snd_stepAsks (n : BitVec 4) (asks : List Access) : (stepAsks n asks).map Prod.snd = asks := by
  rw [stepAsks, List.map_map]
  exact List.map_id _

theorem map_snd_stepAsks_append (n : BitVec 4) (asks : List Access) (rest : List (BitVec 4 × Access)) :
    (stepAsks n asks ++ rest).map Prod.snd = asks ++ rest.map Prod.snd := by
  rw [List.map_append, map_snd_stepAsks]

/-- The first access that fails is one of the step's own, or none of these fails and it is a later step's. -/
theorem FirstFails.step_cases {s t : State} {n m : BitVec 4} {asks : List Access} {rest : List (BitVec 4 × Access)} {k : Nat}
    {a : Access} (h : FirstFails s ((stepAsks n asks ++ rest).map Prod.snd) k)
    (hk : (stepAsks n asks ++ rest)[k]? = some (m, a)) (ht : t.env = askedMore s asks.length) :
    (FirstFails s asks k ∧ m = n ∧ writesBefore ((stepAsks n asks ++ rest).map Prod.snd) k = writesBefore asks k) ∨
      NoneFails s asks ∧ ∃ j, FirstFails t (rest.map Prod.snd) j ∧ rest[j]? = some (m, a) ∧
        writesBefore ((stepAsks n asks ++ rest).map Prod.snd) k =
          writesBefore asks asks.length + writesBefore (rest.map Prod.snd) j := by
  rw [map_snd_stepAsks_append] at h ⊢
  obtain h | ⟨hnone, j, rfl, hj⟩ := h.append_cases ht
  · refine .inl ⟨h, ?_, writesBefore_append_left _ h.lt.le⟩
    rw [List.getElem?_append_left (by rw [length_stepAsks]; exact h.lt), stepAsks, List.getElem?_map,
      List.getElem?_eq_getElem h.lt] at hk
    exact (congrArg Prod.fst (Option.some.inj hk)).symm
  · refine .inr ⟨hnone, j, hj, ?_, writesBefore_append _ _ _⟩
    rwa [List.getElem?_append_right (by rw [length_stepAsks]; exact Nat.le_add_right _ _), length_stepAsks,
      Nat.add_sub_cancel_left] at hk

theorem NoneFails.step {s t : State} {n : BitVec 4} {asks : List Access} {rest : List (BitVec 4 × Access)}
    (h : NoneFails s ((stepAsks n asks ++ rest).map Prod.snd)) (ht : t.env = askedMore s asks.length) :
    NoneFails s asks ∧ NoneFails t (rest.map Prod.snd) := by
  rw [map_snd_stepAsks_append] at h
  exact ⟨h.append_left, h.append_right ht⟩

end Sys2Proof.Machine
end

section
/-! Steps 6 to 8 of COMPRESS (47_compress_sequencer.md R141): the payload, its last byte and the patch of paddingBits, up to
the first access that fails. -/
namespace Sys2Proof.Machine

theorem State.stalled_sink (s : State) (b : Bool) : (s.stalled b).sink = s.sink := rfl

theorem State.failedAsk_sink (s : State) : s.failedAsk.sink = s.sink := rfl

theorem State.stalled_seqStep (s : State) (b : Bool) : (s.stalled b).seqStep = s.seqStep := rfl

theorem State.failedAsk_seqStep (s : State) : s.failedAsk.seqStep = s.seqStep := rfl

theorem State.readPast_seqStep (s : State) (n : Nat) : (s.readPast n).seqStep = s.seqStep := rfl

theorem State.sent_seqStep (s : State) (bits : List Bool) : (s.sent bits).seqStep = s.seqStep := rfl

theorem State.coded_seqStep (s : State) (bs : List Byte) : (s.coded bs).seqStep = s.seqStep :=
  (State.sent_seqStep _ _).trans (State.readPast_seqStep _ _)

theorem State.wrote_seqStep (s : State) (bs : List Byte) : (s.wrote bs).seqStep = s.seqStep := rfl

section
variable {s : State} {k : Nat}

/-- Where the encoding stops at a failed access, OUT has as many bytes more as writes succeeded, the first of the codes'. -/
theorem encodeStream_of_firstFails (h : s.codes.valid = true) (hv : ∀ v ∈ unread s, (ctAt s.codes.ct v).valid = true)
    (hroom : s.CodingRoom (unread s) 0) (hio : FirstFails s (s.codingAsks (unread s)) k) :
    ∃ sp t pre post, encodeStream s = .error (.ioFailed sp) t ∧ payloadBits s.codes.ct (unread s) = pre ++ post ∧
      t.sink = s.sink.putAll (s.bw.emitAll pre) ∧ t.seqStep = s.seqStep ∧
      (s.bw.emitAll pre).length = writesBefore (s.codingAsks (unread s)) k := by
  obtain ⟨done, v, rest, j, hun, hnone, rfl, hj⟩ := firstFails_codingAsks hroom hio
  have hlen := length_codingAsks s done
  rw [hun] at hroom hv
  have hdone1 : s.CodingRoom ((done ++ [v]) ++ rest) 0 := by rwa [List.append_assoc]
  have hpay : payloadBits s.codes.ct (done ++ v :: rest) =
      payloadBits s.codes.ct done ++ (codeBits (ctAt s.codes.ct v) ++ payloadBits s.codes.ct rest) := by
    rw [payloadBits_append]
    exact congrArg (payloadBits s.codes.ct done ++ ·) List.flatMap_cons
  obtain ⟨hreads, -⟩ := codingAsks_at hroom hj.lt
  rw [writesBefore, hun, hreads, hpay]
  cases j with
  | zero =>
    have hread := (firstFails_zero _ _ _).1 (codingAsks_singleton (s.coded done) v ▸ hj)
    refine ⟨_, _, _, _, encodeStream_of_read_ioFails h hun (fun x hx => hv x (List.mem_append_left _ hx)) hroom.left hnone
      hread, rfl, State.failedAsk_sink _, (State.failedAsk_seqStep _).trans (State.coded_seqStep _ _), ?_⟩
    rw [hlen]
    exact (Nat.add_sub_cancel_left _ _).symm
  | succ j =>
    obtain ⟨pre, b, post, hbits, -, hk, hrun⟩ := encodeStream_of_write_ioFails h hun
      (fun x hx => hv x (by rw [List.append_cons]; exact List.mem_append_left _ hx)) hdone1.left hnone hj
    rw [State.sent_coded_readPast] at hrun
    refine ⟨_, _, payloadBits s.codes.ct done ++ pre, b :: post ++ payloadBits s.codes.ct rest, hrun, ?_, State.stalled_sink _ _,
      (State.stalled_seqStep _ _).trans ((State.sent_seqStep _ _).trans (State.readPast_seqStep _ _)), ?_⟩
    · rw [hbits, List.append_assoc, List.append_assoc]
    · rw [BitWriter.emitAll_append, List.length_append, hlen, ← hk]
      show _ + ((s.coded done).bw.emitAll pre).length = _ - (done.length + 1)
      omega

end

theorem writesBefore_codingAsks (s : State) (bs : List Byte) :
    writesBefore (s.codingAsks bs) (s.codingAsks bs).length = (s.bw.emitAll (payloadBits s.codes.ct bs)).length := by
  have hreads : readCount (s.codingAsks bs) = bs.length := readCount_encodeAsks _ _ _ _ _
  rw [writesBefore, List.take_length, hreads, length_codingAsks, Nat.add_sub_cancel_left]

/-! ### The steps -/

/-- The bytes of the payload of what is unread. -/
def State.payload (s : State) : List Byte :=
  s.bw.emitAll (payloadBits s.codes.ct (unread s)) ++ (s.coded (unread s)).bw.rest

/-- The accesses of steps 6 to 8 (47_compress_sequencer.md R141). -/
def State.payloadAsks (s : State) : List (BitVec 4 × Access) :=
  stepAsks 6#4 (s.codingAsks (unread s)) ++
    (stepAsks 7#4 (writeAsks (s.coded (unread s)).sink.pos (s.coded (unread s)).bw.rest.length) ++
      stepAsks 8#4 [(.out, Config.padOffset)])

/-- The encoder can begin: codes for all that is unread, a new writer, a header in OUT and room after it. -/
structure CanEncode (s : State) : Prop where
  codes : s.codes.valid = true
  known : ∀ v ∈ unread s, (ctAt s.codes.ct v).valid = true
  clean : s.bw.Clean
  header : 11 < s.sink.len.toNat
  room : s.sink.Room s.payload.length

section
variable {s : State} (h : CanEncode s)
include h

theorem CanEncode.codingRoom : s.CodingRoom (unread s) 0 :=
  h.room.le (by rw [State.payload, List.length_append, BitWriter.length_emitAll]; exact Nat.le_add_right _ _)

theorem CanEncode.coded_room : (s.coded (unread s)).sink.Room (s.coded (unread s)).bw.rest.length := by
  have hroom := h.room
  rw [State.payload, List.length_append] at hroom
  exact hroom.putAll

theorem CanEncode.coded_clean : (s.coded (unread s)).bw.Clean := h.clean.pushAll _

end

/-- The state before the patch. -/
def State.encoded (s : State) : State :=
  { s with
    seqStep := 8#4
    bw := (s.bw.pushAll (payloadBits s.codes.ct (unread s))).flushed
    src := (s.readPast (unread s).length).src
    sink := s.sink.putAll s.payload
    env := askedMore s ((s.codingAsks (unread s)).length + (s.coded (unread s)).bw.rest.length) }

theorem State.closed_setSeqStep (s : State) :
    ((s.setSeqStep 7#4).closed).setSeqStep 8#4 =
      { s with
        seqStep := 8#4, bw := s.bw.flushed, sink := s.sink.putAll s.bw.rest, env := askedMore s s.bw.rest.length } := rfl

/-- The state after bytes were coded, field by field. -/
theorem State.coded_eq (s : State) (bs : List Byte) :
    s.coded bs =
      { s with
        bw := s.bw.pushAll (payloadBits s.codes.ct bs), src := (s.readPast bs.length).src,
        sink := s.sink.putAll (s.bw.emitAll (payloadBits s.codes.ct bs)), env := (s.coded bs).env } := rfl

theorem State.encoded_eq (s : State) : (((s.coded (unread s)).setSeqStep 7#4).closed).setSeqStep 8#4 = s.encoded := by
  have henv := askedMore_askedMore (env_coded s (unread s)) (s.coded (unread s)).bw.rest.length
  have hsink : (s.coded (unread s)).sink.putAll (s.coded (unread s)).bw.rest = s.sink.putAll s.payload :=
    (Stream.putAll_append _ _ _).symm
  rw [State.closed_setSeqStep, henv, hsink, State.coded_eq]
  rfl

theorem State.encoded_env (s : State) :
    s.encoded.env = askedMore (s.coded (unread s))
      (writeAsks (s.coded (unread s)).sink.pos (s.coded (unread s)).bw.rest.length).length := by
  rw [length_writeAsks, askedMore_askedMore (env_coded s (unread s))]
  rfl

theorem State.encoded_patched (s : State) (pad : Byte) :
    ((s.encoded.setEnv s.encoded.env.countAsk).setSink (s.encoded.sink.patch Config.padOffset pad)).setSeqStep 0#4 =
      { s with
        seqStep := 0#4
        bw := (s.bw.pushAll (payloadBits s.codes.ct (unread s))).flushed
        src := (s.readPast (unread s).length).src
        sink := (s.sink.putAll s.payload).patch Config.padOffset pad
        env := askedMore s ((s.codingAsks (unread s)).length + (s.coded (unread s)).bw.rest.length + 1) } := by
  rw [State.encoded]
  rfl

theorem BitWriter.pad_le (w : BitWriter) : w.pad ≤ 7#8 := by
  rw [BitVec.le_def, BitWriter.pad_toNat]
  exact Nat.le_of_lt_succ (Nat.mod_lt _ (by decide))

section
variable {s : State} (h : CanEncode s)
include h

theorem CanEncode.patchPadding_eq :
    patchPadding (s.coded (unread s)).bw.pad s.encoded = sinkPatch Config.padOffset (s.coded (unread s)).bw.pad s.encoded := by
  refine patchPadding_eq_sinkPatch (BitWriter.pad_le _) ?_
  have hlen := Stream.Room.len_putAll (n := 0) h.room
  have h11 := h.header
  show 11#64 < (s.sink.putAll s.payload).len
  rw [BitVec.lt_def, hlen]
  exact (by omega : 11 < s.sink.len.toNat + s.payload.length)

/-- The steps up to the patch. -/
theorem CanEncode.payloadSteps_eq (hio : NoneFails s (s.codingAsks (unread s)))
    (hclose : NoneFails (s.coded (unread s))
      (writeAsks (s.coded (unread s)).sink.pos (s.coded (unread s)).bw.rest.length)) :
    payloadSteps s = (sinkPatch Config.padOffset (s.coded (unread s)).bw.pad >>= fun _ => seqStep 0#4) s.encoded := by
  have hcoded := encodeStream_of_noneFails h.codes h.known h.codingRoom hio
  have hclosed := bwClose_of_noneFails (s := (s.coded (unread s)).setSeqStep 7#4) h.coded_clean h.coded_room hclose
  rw [payloadSteps, Cmd.run_bind_ok hcoded, Cmd.run_bind_ok (seqStep_eq _ _), Cmd.run_bind_ok hclosed,
    Cmd.run_bind_ok (seqStep_eq _ _), State.encoded_eq, Cmd.run_bind, Cmd.run_bind, ← h.patchPadding_eq]
  rfl

theorem CanEncode.payloadSteps_of_noneFails (hio : NoneFails s (s.payloadAsks.map Prod.snd)) :
    payloadSteps s = .ok () (((s.encoded.setEnv s.encoded.env.countAsk).setSink
      (s.encoded.sink.patch Config.padOffset (s.coded (unread s)).bw.pad)).setSeqStep 0#4) := by
  obtain ⟨hcode, hio⟩ := hio.step (env_coded s (unread s))
  obtain ⟨hclose, hio⟩ := hio.step (t := s.encoded) s.encoded_env
  rw [map_snd_stepAsks] at hio
  have hpatch := ((noneFails_cons (t := s.encoded.failedAsk) rfl _ _).1 hio).1
  rw [h.payloadSteps_eq hcode hclose, Cmd.run_bind_ok (sinkPatch_of_not_ioFails _ hpatch)]
  rfl

/-- Where an access fails, OUT has the bytes more that were written before it, and SEQ_STEP names the step. -/
theorem CanEncode.payloadSteps_of_firstFails {k : Nat} {n : BitVec 4} {a : Access} (hseq : s.seqStep = 6#4)
    (hio : FirstFails s (s.payloadAsks.map Prod.snd) k) (hk : s.payloadAsks[k]? = some (n, a)) :
    ∃ sp t, payloadSteps s = .error (.ioFailed sp) t ∧ t.seqStep = n ∧
      t.sink = s.sink.putAll (s.payload.take (writesBefore (s.payloadAsks.map Prod.snd) k)) := by
  obtain ⟨hfail, rfl, hcount⟩ | ⟨hcode, j, hio, hj, hcount⟩ := hio.step_cases hk (env_coded s (unread s))
  · obtain ⟨sp, t, pre, post, hrun, hpay, hsink, hstep, hlen⟩ := encodeStream_of_firstFails h.codes h.known h.codingRoom
      hfail
    refine ⟨sp, t, Cmd.run_bind_error hrun, hstep.trans hseq, ?_⟩
    rw [hsink, State.payloadAsks, hcount, ← hlen, State.payload, hpay, BitWriter.emitAll_append, List.append_assoc,
      List.take_left]
  · rw [State.payloadAsks, hcount, writesBefore_codingAsks]
    clear hcount
    obtain ⟨hfail, rfl, hcount⟩ | ⟨hclose, i, hio, hi, hcount⟩ := hio.step_cases hj (t := s.encoded)
      s.encoded_env
    · obtain ⟨rfl, hclose⟩ := bwClose_of_firstFails (s := (s.coded (unread s)).setSeqStep 7#4) hfail
      have hcoded := encodeStream_of_noneFails h.codes h.known h.codingRoom hcode
      refine ⟨_, _, (Cmd.run_bind_ok hcoded).trans ((Cmd.run_bind_ok (seqStep_eq _ _)).trans (Cmd.run_bind_error hclose)),
        rfl, ?_⟩
      rw [hcount, writesBefore_writeAsks (Nat.zero_le _), Nat.add_zero, State.payload, List.take_left]
      rfl
    · have hi0 : i = 0 := Nat.lt_one_iff.1 (by simpa using hio.lt)
      subst hi0
      rw [map_snd_stepAsks] at hio
      cases hi
      have hpatch := sinkPatch_of_ioFails (s := s.encoded) (s.coded (unread s)).bw.pad ((firstFails_zero _ _ _).1 hio)
      rw [h.payloadSteps_eq hcode hclose, Cmd.run_bind_error hpatch]
      refine ⟨_, _, rfl, rfl, ?_⟩
      have hall : (s.bw.emitAll (payloadBits s.codes.ct (unread s))).length + ((s.coded (unread s)).bw.rest.length + 0) =
          s.payload.length := by
        rw [State.payload, List.length_append, Nat.add_zero]
      rw [hcount, length_writeAsks, writesBefore_writeAsks (Nat.le_refl _), map_snd_stepAsks,
        show writesBefore [(.out, Config.padOffset)] 0 = 0 from rfl, hall, List.take_length]
      rfl

end

end Sys2Proof.Machine
end

section
/-! Steps 5 to 8 of COMPRESS (47_compress_sequencer.md R141): a new OUT, the header with paddingBits 0, the payload and the
patch, up to the first access that fails. -/
namespace Sys2Proof.Machine

/-- OUT made empty, as SINK_OPEN leaves it. -/
def State.opened (s : State) : State := s.setSink { s.sink with len := 0#64, pos := 0#64 }

theorem State.opened_seqStep (s : State) : s.opened.seqStep = s.seqStep := rfl

/-- The header of step 5. -/
def State.header0 (s : State) (z : Word) : List Byte := headerOf z (BitVec.ofNat 8 (ftN s.ft)) 0#8 (entriesOf s.ft)

/-- The state at the start of the encoding in step 6. -/
def State.headered (s : State) (z : Word) : State :=
  { s with
    seqStep := 6#4
    bw := BitWriter.init
    src := { s.src with pos := 0#64 }
    sink := s.opened.sink.putAll (s.header0 z)
    env := askedMore s (s.header0 z).length }

/-- The accesses of steps 5 to 8. -/
def State.containerAsks (s : State) (z : Word) : List (BitVec 4 × Access) :=
  stepAsks 5#4 (writeAsks 0#64 (s.header0 z).length) ++ (s.headered z).payloadAsks

/-- The payload of an input under these codes is no longer than the offsets of OUT. -/
structure CanPack (s : State) : Prop where
  codes : s.codes.valid = true
  known : ∀ v ∈ inBytes s, (ctAt s.codes.ct v).valid = true
  few : ftN s.ft ≤ 255
  room : (packedBytes (payloadBits s.codes.ct (inBytes s))).length + 2048 < 2 ^ 64

theorem State.begin_eq (s : State) :
    (((s.setSeqStep 6#4).setSrc { (s.setSeqStep 6#4).src with pos := 0#64 }).setBw BitWriter.init) =
      { s with seqStep := 6#4, bw := BitWriter.init, src := { s.src with pos := 0#64 } } := rfl

theorem State.opened_wrote_eq (s : State) (bs : List Byte) :
    s.opened.wrote bs = { s with sink := s.opened.sink.putAll bs, env := askedMore s bs.length } := rfl

theorem State.headered_eq (s : State) (z : Word) :
    ((((s.opened.wrote (s.header0 z)).setSeqStep 6#4).setSrc
      { ((s.opened.wrote (s.header0 z)).setSeqStep 6#4).src with pos := 0#64 }).setBw BitWriter.init) = s.headered z := by
  rw [State.begin_eq, State.opened_wrote_eq, State.headered]

theorem State.headered_seqStep (s : State) (z : Word) : (s.headered z).seqStep = 6#4 := rfl

theorem State.headered_sink (s : State) (z : Word) : (s.headered z).sink = s.opened.sink.putAll (s.header0 z) := by
  rw [State.headered]

theorem State.headered_env (s : State) (z : Word) : (s.headered z).env = askedMore s (s.header0 z).length := by
  rw [State.headered]

theorem State.headered_readPast (s : State) (z : Word) (n : Nat) :
    ((s.headered z).readPast n).src = { s.src with pos := 0#64 + BitVec.ofNat 64 n } := by
  rw [State.headered]
  rfl

theorem unread_headered (s : State) (z : Word) : unread (s.headered z) = inBytes s := unread_at_start rfl

theorem payload_headered (s : State) (z : Word) :
    (s.headered z).payload = packedBytes (payloadBits s.codes.ct (inBytes s)) := by
  rw [State.payload, unread_headered]
  rfl

section
variable {s : State} (h : CanPack s) (z : Word)
include h

theorem CanPack.length_header : (s.header0 z).length ≤ 12 + 5 * 255 := by
  rw [State.header0, length_headerOf, length_entriesOf]
  have := h.few
  omega

theorem CanPack.opened_room {n : Nat} (hn : n ≤ (packedBytes (payloadBits s.codes.ct (inBytes s))).length) :
    s.opened.sink.Room ((s.header0 z).length + n) := by
  have hlen := h.length_header z
  have hroom := h.room
  exact ⟨rfl, (by omega : 0 + ((s.header0 z).length + n) < 2 ^ 64)⟩

theorem CanPack.canEncode : CanEncode (s.headered z) where
  codes := h.codes
  known := by
    rw [unread_headered]
    exact h.known
  clean := clean_init
  header := by
    have hlen := (h.opened_room z (Nat.zero_le _)).len_putAll
    have h12 : 12 ≤ (s.header0 z).length := by
      rw [State.header0, length_headerOf]
      exact Nat.le_add_right _ _
    refine lt_of_lt_of_eq ?_ hlen.symm
    exact (by omega : 11 < 0 + (s.header0 z).length)
  room := by
    rw [payload_headered, State.headered_sink]
    exact (h.opened_room z (Nat.le_refl _)).putAll

theorem CanPack.cfWriteHeader_eq : cfWriteHeader 0#8 z s.opened = sinkBytes (s.header0 z) s.opened :=
  cfWriteHeader_eq_sinkBytes z h.few (by decide)

theorem CanPack.containerSteps_eq (hio : NoneFails s (writeAsks 0#64 (s.header0 z).length)) :
    containerSteps z s = payloadSteps (s.headered z) := by
  have hwrote := sinkBytes_of_noneFails (s := s.opened) (h.opened_room z (Nat.zero_le _))
    ((noneFails_congr (t := s.opened) rfl).1 hio)
  have hopen : sinkOpen s = .ok () s.opened := sinkOpen_eq s
  rw [containerSteps, Cmd.run_bind_ok hopen, Cmd.run_bind_ok ((h.cfWriteHeader_eq z).trans hwrote),
    Cmd.run_bind_ok (seqStep_eq _ _), Cmd.run_bind_ok (srcOpen_eq _), Cmd.run_bind_ok (bwInit_eq _),
    State.headered_eq]

omit h in
theorem env_headered : (s.headered z).env = askedMore s (writeAsks 0#64 (s.header0 z).length).length := by
  rw [length_writeAsks]
  rfl

omit h in
/-- What OUT holds is what was sent to it since it was opened. -/
theorem outBytes_opened {t : State} {bs : List Byte} (hwf : s.sink.mem.wf) (hroom : s.opened.sink.Room bs.length)
    (ht : t.sink = s.opened.sink.putAll bs) : outBytes t = bs := by
  have happ : Appended s.opened.sink bs t.sink := ht ▸ appended_putAll hroom hwf
  rw [happ.outBytes, outBytes_of_len_zero rfl, List.nil_append]

/-- The bytes that steps 5 to 8 send before the patch. -/
def State.container0 (s : State) (z : Word) : List Byte :=
  s.header0 z ++ packedBytes (payloadBits s.codes.ct (inBytes s))

/-- Where an access fails, OUT has the first bytes of the container, as many as were written before it. -/
theorem CanPack.containerSteps_of_firstFails {k : Nat} {n : BitVec 4} {a : Access} (hseq : s.seqStep = 5#4)
    (hio : FirstFails s ((s.containerAsks z).map Prod.snd) k) (hk : (s.containerAsks z)[k]? = some (n, a)) :
    ∃ sp t, containerSteps z s = .error (.ioFailed sp) t ∧ t.seqStep = n ∧
      t.sink = s.opened.sink.putAll ((s.container0 z).take (writesBefore ((s.containerAsks z).map Prod.snd) k)) := by
  obtain ⟨hfail, rfl, hcount⟩ | ⟨hwrite, j, hio, hj, hcount⟩ := hio.step_cases hk (env_headered z)
  · have hkl : k ≤ (s.header0 z).length := by simpa using hfail.lt.le
    have hwrote := sinkBytes_of_firstFails (s := s.opened) (h.opened_room z (Nat.zero_le _))
      ((firstFails_congr (t := s.opened) rfl).1 hfail)
    refine ⟨_, _, (Cmd.run_bind_ok (sinkOpen_eq s)).trans (Cmd.run_bind_error ((h.cfWriteHeader_eq z).trans hwrote)),
      (State.failedAsk_seqStep _).trans ((State.wrote_seqStep _ _).trans ((State.opened_seqStep s).trans hseq)), ?_⟩
    rw [State.containerAsks, hcount, writesBefore_writeAsks hkl, State.container0, List.take_append_of_le_length hkl,
      State.failedAsk_sink, State.wrote]
  · obtain ⟨sp, t, hrun, hstep, hsink⟩ := (h.canEncode z).payloadSteps_of_firstFails (State.headered_seqStep s z) hio hj
    refine ⟨sp, t, (h.containerSteps_eq z hwrite).trans hrun, hstep, ?_⟩
    rw [State.containerAsks, hcount, writesBefore_writeAsks (length_writeAsks _ _).le, length_writeAsks, State.container0,
      List.take_length_add_append, ← payload_headered s z, hsink, State.headered_sink, Stream.putAll_append]

/-- The container's first bytes have room. -/
theorem CanPack.container0_room (m : Nat) : s.opened.sink.Room ((s.container0 z).take m).length := by
  have hroom := h.opened_room z (Nat.le_refl _)
  rw [← List.length_append] at hroom
  exact hroom.le (List.length_take_le' _ _)

omit h in
/-- The patched header has the padding count. -/
theorem set_headerOf (z : Word) (n p pad : Byte) (es : List HdrEntry) (payload : List Byte) :
    (headerOf z n p es ++ payload).set 11 pad = headerOf z n pad es ++ payload := by
  rw [headerOf_eq_cons, headerOf_eq_cons]
  obtain ⟨b0, b1, b2, b3, b4, b5, b6, b7, hb⟩ : ∃ b0 b1 b2 b3 b4 b5 b6 b7,
      be64Bytes z = [b0, b1, b2, b3, b4, b5, b6, b7] := ⟨_, _, _, _, _, _, _, _, rfl⟩
  rw [hb]
  rfl

/-- The stream that steps 5 to 8 leave. -/
def State.container (s : State) (z : Word) (bits : List Bool) : Stream :=
  (s.opened.sink.putAll (s.header0 z ++ packedBytes bits)).patch Config.padOffset (BitVec.ofNat 8 (padCount bits.length))

omit h in
theorem length_inBytes (s : State) : (inBytes s).length = s.src.len.toNat := length_memBytes _ _ _

/-- The stream with its cursor at its end. -/
def Stream.spent (x : Stream) : Stream := { x with pos := x.len }

theorem CanPack.containerSteps_of_noneFails (hio : NoneFails s ((s.containerAsks z).map Prod.snd)) :
    containerSteps z s = .ok ()
      { s with
        seqStep := 0#4
        sink := s.container z (payloadBits s.codes.ct (inBytes s))
        bw := { cur := 0#8, nbits := 0#3, total := (payloadBits s.codes.ct (inBytes s)).length }
        src := s.src.spent
        env := askedMore s (s.containerAsks z).length } := by
  obtain ⟨hwrite, hio⟩ := hio.step (env_headered z)
  rw [h.containerSteps_eq z hwrite, (h.canEncode z).payloadSteps_of_noneFails hio]
  have hpad : ((s.headered z).coded (unread (s.headered z))).bw.pad =
      BitVec.ofNat 8 (padCount (payloadBits s.codes.ct (inBytes s)).length) := by
    rw [unread_headered, ← pad_pushAll_init]
    rfl
  have hbw : ((s.headered z).bw.pushAll (payloadBits (s.headered z).codes.ct (unread (s.headered z)))).flushed =
      { cur := 0#8, nbits := 0#3, total := (payloadBits s.codes.ct (inBytes s)).length } := by
    rw [unread_headered]
    exact flushed_pushAll_init _
  have hsrc : ((s.headered z).readPast (unread (s.headered z)).length).src = s.src.spent := by
    rw [unread_headered, State.headered_readPast, length_inBytes, BitVec.ofNat_toNat, BitVec.setWidth_eq,
      BitVec.zero_add]
    rfl
  have hsink : (s.headered z).sink.putAll (s.headered z).payload = s.opened.sink.putAll (s.header0 z ++
      packedBytes (payloadBits s.codes.ct (inBytes s))) := by
    rw [State.headered_sink, payload_headered, Stream.putAll_append]
  have henv : (s.containerAsks z).length = (s.header0 z).length + (((s.headered z).codingAsks
      (unread (s.headered z))).length + ((s.headered z).coded (unread (s.headered z))).bw.rest.length + 1) := by
    simp only [State.containerAsks, State.payloadAsks, List.length_append, length_stepAsks, length_writeAsks,
      List.length_singleton, Nat.add_assoc]
  rw [hpad, State.encoded_patched, hbw, hsrc, hsink, askedMore_askedMore (State.headered_env s z), ← henv]
  rfl

omit h in
/-- What BW_CLOSE asks after bits from a new writer. -/
theorem writeAsks_rest_init (q : Nat) (bits : List Bool) :
    writeAsks (BitVec.ofNat 64 (q + bits.length / 8)) (BitWriter.init.pushAll bits).rest.length =
      if bits.length % 8 = 0 then [] else [(.out, BitVec.ofNat 64 (q + bits.length / 8))] := by
  rw [length_rest_pushAll_init]
  split
  case isTrue h0 => rw [h0]; rfl
  case isFalse h0 =>
    have hone : (bits.length % 8 + 7) / 8 = 1 := by omega
    rw [hone, writeAsks_succ]
    rfl

/-- The accesses of steps 6 to 8 after a header are those that the list of COMPRESS names. -/
theorem CanPack.payloadAsks_eq :
    (s.headered z).payloadAsks =
      stepAsks 6#4 (encodeAsks s.codes.ct 0 (inBytes s) 0#64 (BitVec.ofNat 64 (s.header0 z).length)) ++
        (stepAsks 7#4 (if (payloadBits s.codes.ct (inBytes s)).length % 8 = 0 then [] else
          [(.out, BitVec.ofNat 64 ((s.header0 z).length + (payloadBits s.codes.ct (inBytes s)).length / 8))]) ++
        stepAsks 8#4 [(.out, Config.padOffset)]) := by
  have hpos : (s.headered z).sink.pos = BitVec.ofNat 64 (s.header0 z).length := by
    rw [State.headered_sink, pos_putAll (h.opened_room z (Nat.zero_le _))]
    exact BitVec.zero_add _
  have hcoding : (s.headered z).codingAsks (inBytes s) =
      encodeAsks s.codes.ct 0 (inBytes s) 0#64 (BitVec.ofNat 64 (s.header0 z).length) := by
    rw [State.codingAsks, hpos]
    rfl
  have hcoded := (h.canEncode z).codingRoom.pos_coded
  have hemit : ((s.headered z).bw.emitAll (payloadBits (s.headered z).codes.ct (inBytes s))).length =
      (payloadBits s.codes.ct (inBytes s)).length / 8 := length_emitAll_init _
  have hbw : ((s.headered z).coded (inBytes s)).bw = BitWriter.init.pushAll (payloadBits s.codes.ct (inBytes s)) := by
    rw [State.coded_eq]
    rfl
  rw [unread_headered, hpos, hemit, BitVec.ofNat_add_ofNat] at hcoded
  rw [State.payloadAsks, unread_headered, hcoded, hcoding, hbw, writeAsks_rest_init]

/-- The bytes of the container, with its padding count. -/
def State.containerBytes (s : State) (z : Word) (bits : List Bool) : List Byte :=
  headerOf z (BitVec.ofNat 8 (ftN s.ft)) (BitVec.ofNat 8 (padCount bits.length)) (entriesOf s.ft) ++ packedBytes bits

/-- OUT is the container, and every byte above it is as it was. -/
structure Stream.HoldsAll (x y : Stream) (bs : List Byte) : Prop where
  atEnd : y.pos = y.len
  wf : y.mem.wf
  bytes : memBytes y.mem 0 y.len.toNat = bs
  above : ∀ a, y.len.toNat ≤ a → memRead y.mem a = memRead x.mem a

omit h in
theorem Appended.memBytes_of_len_zero {x y : Stream} {bs : List Byte} (happ : Appended x bs y) (hx : x.len.toNat = 0) :
    memBytes y.mem 0 y.len.toNat = bs := by
  rw [happ.len, memBytes_of_holds happ.holds, hx]
  rfl

theorem CanPack.container_holds (hwf : s.sink.mem.wf) :
    s.sink.HoldsAll (s.container z (payloadBits s.codes.ct (inBytes s)))
      (s.containerBytes z (payloadBits s.codes.ct (inBytes s))) := by
  have hroom := h.opened_room z (Nat.le_refl _)
  rw [← List.length_append] at hroom
  have happ : Appended s.opened.sink _ _ := appended_putAll hroom hwf
  have hout := happ.memBytes_of_len_zero BitVec.toNat_zero
  have hlen := happ.len
  have h12 : 12 ≤ (s.header0 z).length := by
    rw [State.header0, length_headerOf]
    exact Nat.le_add_right _ _
  rw [List.length_append] at hlen
  rw [State.container]
  generalize s.opened.sink.putAll (s.header0 z ++ packedBytes (payloadBits s.codes.ct (inBytes s))) = x at *
  have h11 : 11 < x.len.toNat := by omega
  refine ⟨happ.atEnd, memWrite_wf _ happ.wf (by decide), ?_, fun a ha => ?_⟩
  · show memBytes (memWrite x.mem 11 _) 0 x.len.toNat = _
    rw [memBytes_memWrite happ.wf, hout, State.header0, set_headerOf]
    rfl
  · have ha : x.len.toNat ≤ a := ha
    have hne : (11 : Nat) ≠ a := by omega
    show memRead (memWrite x.mem 11 _) a = _
    rw [memRead_memWrite _ _ happ.wf, if_neg hne.symm]
    exact happ.above ha

end

end Sys2Proof.Machine
end

section
/-! Steps 1 to 4 of COMPRESS (47_compress_sequencer.md R141, R142): the scan, the checks of the alphabet, the tree and its
codes. -/
namespace Sys2Proof.Machine

/-! ### The scan -/

/-- The state at the start of the scan. -/
def State.rewound (s : State) : State := { s with seqStep := 1#4, src := { s.src with pos := 0#64 } }

/-- The state after the scan of the whole input. -/
def State.scanned (s : State) : State :=
  { s with
    seqStep := 1#4
    ft := tableOf (countsOf (inBytes s))
    tree := { s.tree with valid := false }
    codes := { s.codes with valid := false }
    dec := { s.dec with valid := false }
    src := s.src.spent
    env := askedMore s (inBytes s).length }

/-- COMPRESS from step 2 on. -/
def checkedSteps (size : Word) : Cmd Unit := do
  checkAlphabet
  seqStep 4#4
  encodeSteps size

theorem compress_eq_scan (s : State) : compress s = (freqScan >>= checkedSteps) s.rewound := by
  rw [compress_eq_steps, Cmd.run_bind_ok (seqStep_eq _ _), Cmd.run_bind_ok (srcOpen_eq _)]
  rfl

theorem ofNat_length_inBytes (s : State) : BitVec.ofNat 64 (inBytes s).length = s.src.len := by
  rw [length_inBytes, BitVec.ofNat_toNat, BitVec.setWidth_eq]

theorem State.setFt_readPast_dropTree (s : State) (n : Nat) (ft : Vector FtEntry 256) :
    (s.dropTree.readPast n).setFt ft =
      { s with
        ft := ft
        tree := { s.tree with valid := false }
        codes := { s.codes with valid := false }
        dec := { s.dec with valid := false }
        src := { s.src with pos := s.src.pos + BitVec.ofNat 64 n }
        env := askedMore s n } := by
  simp only [State.setFt, State.readPast, State.setSrc, State.setEnv, State.dropTree, State.setTree, State.setCodes,
    State.setDec, askedMore]

theorem State.scanned_eq {s : State} {ft : Vector FtEntry 256} (h : Counts ft (inBytes s)) :
    (s.rewound.dropTree.readPast (inBytes s).length).setFt ft = s.scanned := by
  have hpos : 0#64 + BitVec.ofNat 64 (inBytes s).length = s.src.len := by
    rw [ofNat_length_inBytes, BitVec.zero_add]
  rw [h.eq_tableOf, State.setFt_readPast_dropTree, State.rewound, State.scanned, Stream.spent]
  simp only [hpos]
  rfl

theorem unread_rewound (s : State) : unread s.rewound = inBytes s := unread_at_start rfl

section
variable {s : State}

theorem compress_of_scanned (hio : NoneFails s (readAsks 0#64 (inBytes s).length))
    (hlt : ∀ x, (inBytes s).count x < 2 ^ 32) : compress s = checkedSteps s.src.len s.scanned := by
  obtain ⟨ft, hscan, hft⟩ := freqScan_of_noneFails (s := s.rewound)
    (by rw [unread_rewound]; exact (noneFails_congr (t := s.rewound) rfl).1 hio) (by rwa [unread_rewound])
  rw [unread_rewound] at hscan hft
  rw [compress_eq_scan, Cmd.run_bind_ok hscan]
  rw [State.scanned_eq hft, ofNat_length_inBytes]

theorem inBytes_scanned (s : State) : inBytes s.scanned = inBytes s := inBytes_congr rfl rfl

/-- How the scan of COMPRESS fails, with OUT untouched (40_frequency_table.md R82, R83). -/
theorem compress_of_scan_ioFails {k : Nat} (hio : FirstFails s (readAsks 0#64 (inBytes s).length) k)
    (hlt : ∀ x, ((inBytes s).take k).count x < 2 ^ 32) :
    ∃ t, compress s = .error (.ioFailed .inp) t ∧ t.seqStep = 1#4 ∧ t.sink = s.sink := by
  obtain ⟨ft, hscan, -⟩ := freqScan_of_firstFails (s := s.rewound)
    (by rw [unread_rewound]; exact (firstFails_congr (t := s.rewound) rfl).1 hio) (by rwa [unread_rewound])
  rw [State.setFt_readPast_dropTree] at hscan
  exact ⟨_, (compress_eq_scan s).trans (Cmd.run_bind_error hscan), rfl, rfl⟩

theorem compress_of_overflow {done : List Byte} (h : OverflowsAfter (inBytes s) done)
    (hio : NoneFails s (readAsks 0#64 (done.length + 1))) :
    ∃ t, compress s = .error (.raised .freqOverflow) t ∧ t.seqStep = 1#4 ∧ t.sink = s.sink := by
  obtain ⟨ft, hscan, -⟩ := freqScan_of_overflow (s := s.rewound) (by rwa [unread_rewound])
    ((noneFails_congr (t := s.rewound) rfl).1 hio)
  rw [State.setFt_readPast_dropTree] at hscan
  exact ⟨_, (compress_eq_scan s).trans (Cmd.run_bind_error hscan), rfl, rfl⟩

theorem OverflowsAfter.length_lt {bs done : List Byte} (h : OverflowsAfter bs done) : done.length + 1 ≤ bs.length := by
  obtain ⟨v, rest, rfl, -⟩ := h
  rw [List.length_append, List.length_cons]
  omega

theorem OverflowsAfter.of_take {bs done : List Byte} {k : Nat} (h : OverflowsAfter (bs.take k) done) :
    OverflowsAfter bs done := by
  obtain ⟨v, rest, hbs, hv, hlt⟩ := h
  refine ⟨v, rest ++ bs.drop k, ?_, hv, hlt⟩
  rw [← List.cons_append, ← List.append_assoc, ← hbs, List.take_append_drop]

/-- The scan ends in one of three ways. -/
theorem scan_cases (s : State) :
    (NoneFails s (readAsks 0#64 (inBytes s).length) ∧ ∀ x, (inBytes s).count x < 2 ^ 32) ∨
      (∃ k, FirstFails s (readAsks 0#64 (inBytes s).length) k ∧ ∀ x, ((inBytes s).take k).count x < 2 ^ 32) ∨
      ∃ done, OverflowsAfter (inBytes s) done ∧ NoneFails s (readAsks 0#64 (done.length + 1)) := by
  obtain hio | ⟨k, hio⟩ := noneFails_or_firstFails s (readAsks 0#64 (inBytes s).length)
  · by_cases hlt : ∀ x, (inBytes s).count x < 2 ^ 32
    · exact .inl ⟨hio, hlt⟩
    · obtain ⟨x, hx⟩ := not_forall.1 hlt
      obtain ⟨done, h⟩ := exists_overflowsAfter ⟨x, Nat.le_of_not_lt hx⟩
      exact .inr (.inr ⟨done, h, hio.readAsks_le h.length_lt⟩)
  · by_cases hlt : ∀ x, ((inBytes s).take k).count x < 2 ^ 32
    · exact .inr (.inl ⟨k, hio, hlt⟩)
    · obtain ⟨x, hx⟩ := not_forall.1 hlt
      obtain ⟨done, h⟩ := exists_overflowsAfter ⟨x, Nat.le_of_not_lt hx⟩
      refine .inr (.inr ⟨done, h.of_take, hio.readAsks.readAsks_le (h.length_lt.trans (List.length_take_le _ _))⟩)

/-! ### The checks -/

theorem ftN_scanned (s : State) : ftN s.scanned.ft = (distinctSyms (inBytes s)).length :=
  (counts_tableOf (inBytes s)).ftN_eq

theorem checkedSteps_of_empty (z : Word) (h : inBytes s = []) :
    checkedSteps z s.scanned = .error (.raised .emptyInput) (s.scanned.setSeqStep 2#4) := by
  have h0 : ftN s.scanned.ft = 0 := by
    rw [ftN_scanned, h]
    rfl
  have hcheck : checkAlphabet s.scanned = .error (.raised .emptyInput) (s.scanned.setSeqStep 2#4) := by
    rw [checkAlphabet, Cmd.run_bind_ok (seqStep_eq _ _), Cmd.run_bind_ok (Cmd.run_getState _), State.setSeqStep_ft,
      if_pos h0]
    rfl
  exact Cmd.run_bind_error hcheck

theorem checkedSteps_of_full (z : Word) (h : ∀ v, v ∈ inBytes s) :
    checkedSteps z s.scanned = .error (.raised .alphabetTooLarge) (s.scanned.setSeqStep 3#4) := by
  have hall : ftN s.scanned.ft = 256 := by
    rw [ftN_scanned, distinctSyms, List.filter_eq_self.2 fun v _ => decide_eq_true (h v), length_allSyms]
  have h0 : ftN s.scanned.ft ≠ 0 := by
    rw [hall]
    decide
  have hmax : Config.maxSyms < ftN s.scanned.ft := by
    rw [hall]
    decide
  have hcheck : checkAlphabet s.scanned =
      .error (.raised .alphabetTooLarge) ((s.scanned.setSeqStep 2#4).setSeqStep 3#4) := by
    rw [checkAlphabet, Cmd.run_bind_ok (seqStep_eq _ _), Cmd.run_bind_ok (Cmd.run_getState _), State.setSeqStep_ft,
      if_neg h0, Cmd.run_bind_ok (seqStep_eq _ _), if_pos hmax]
    rfl
  exact Cmd.run_bind_error hcheck

theorem checkedSteps_of_admitted (z : Word) (hne : inBytes s ≠ []) (hlack : ∃ x, x ∉ inBytes s) :
    checkedSteps z s.scanned = encodeSteps z (s.scanned.setSeqStep 4#4) := by
  have hsyms := (counts_tableOf (inBytes s)).presentSyms_ne_nil hne
  have hle := (counts_tableOf (inBytes s)).ftN_le hlack
  rw [checkedSteps, Cmd.run_bind_ok (checkAlphabet_of_ok (s := s.scanned) (mt List.length_eq_zero_iff.1 hsyms) hle),
    Cmd.run_bind_ok (seqStep_eq _ _)]
  rfl

/-! ### The tree and the codes -/

/-- What TB_BUILD and CG_GENERATE make of the counts of an input: this tree, this PQ_SEQ and the codes of this shape. -/
structure Analysis (s : State) (t : Tree) (seq : Nat) (T : Shape) : Prop where
  fits : T.Fits
  valid : t.valid = true
  shows : Shows t T t.root
  spelled : ∀ x ∈ inBytes s, some x ∈ T.leaves
  built : ∀ u : State, u.ft = tableOf (countsOf (inBytes s)) → u.env.tieRank = s.env.tieRank → u.tree.node = s.tree.node →
    tbBuild u = .ok () (u.built t seq)

/-- A shape that TB_BUILD makes of the counts on any arena is an analysis of the input on the state's own. -/
theorem analysis_of_shape {T : Shape} (hsyms : presentSyms (tableOf (countsOf (inBytes s))) ≠ []) (hT : T.Fits)
    (hmem : ∀ x ∈ presentSyms (tableOf (countsOf (inBytes s))), some x ∈ T.leaves)
    (hbuilt : ∀ u : State, u.ft = tableOf (countsOf (inBytes s)) → u.env.tieRank = s.env.tieRank →
      Completes tbBuild u fun _ v => Built u T v) : ∃ t seq, Analysis s t seq T := by
  obtain ⟨t, seq, ht, -, hvalid, -⟩ := tbBuild_congr (s := s.setFt (tableOf (countsOf (inBytes s))))
    (u := s.setFt (tableOf (countsOf (inBytes s)))) rfl rfl rfl hsyms
  obtain ⟨_, v, hv, -, -, hshows⟩ := hbuilt (s.setFt (tableOf (countsOf (inBytes s)))) rfl rfl
  rw [ht] at hv
  cases hv
  refine ⟨t, seq, hT, hvalid, hshows, fun x hx => hmem x ((counts_tableOf _).mem_presentSyms.2 hx), fun u hft hrank hnode => ?_⟩
  obtain ⟨t', seq', ht', hu, -⟩ := tbBuild_congr (s := s.setFt (tableOf (countsOf (inBytes s)))) (u := u) hft.symm
    hrank.symm hnode.symm hsyms
  rw [ht] at ht'
  injection ht' with _ hsame
  obtain rfl : t = t' := congrArg State.tree hsame
  obtain rfl : seq = seq' := congrArg (fun v : State => v.queue.seq) hsame
  exact hu

theorem exists_analysis (hne : inBytes s ≠ []) (hlack : ∃ x, x ∉ inBytes s) : ∃ t seq T, Analysis s t seq T := by
  have hsyms := (counts_tableOf (inBytes s)).presentSyms_ne_nil hne
  obtain ⟨T, hT, hmem, hbuilt⟩ := exists_shape (s := s.setFt (tableOf (countsOf (inBytes s)))) hsyms
    ((counts_tableOf (inBytes s)).ftN_le hlack)
  obtain ⟨t, seq, h⟩ := analysis_of_shape hsyms hT hmem hbuilt
  exact ⟨t, seq, T, h⟩

/-- The codes do not depend on the arena. -/
theorem exists_analyses {u : State} (hin : inBytes s = inBytes u) (hrank : s.env.tieRank = u.env.tieRank)
    (hne : inBytes s ≠ []) (hlack : ∃ x, x ∉ inBytes s) :
    ∃ t seq t' seq' T, Analysis s t seq T ∧ Analysis u t' seq' T := by
  have hsyms := (counts_tableOf (inBytes s)).presentSyms_ne_nil hne
  obtain ⟨T, hT, hmem, hbuilt⟩ := exists_shape (s := s.setFt (tableOf (countsOf (inBytes s)))) hsyms
    ((counts_tableOf (inBytes s)).ftN_le hlack)
  obtain ⟨t, seq, h⟩ := analysis_of_shape hsyms hT hmem hbuilt
  rw [hin] at hsyms hmem hbuilt
  obtain ⟨t', seq', h'⟩ := analysis_of_shape hsyms hT hmem fun v hft hr => hbuilt v hft (hr.trans hrank.symm)
  exact ⟨t, seq, t', seq', T, h, h'⟩

/-- The state at the start of step 5. -/
def State.analysed (s : State) (t : Tree) (seq : Nat) (T : Shape) : State :=
  { s with
    seqStep := 5#4
    ft := tableOf (countsOf (inBytes s))
    queue := { entries := [], seq := seq }
    tree := t
    codes := { ct := T.codes, valid := true }
    dec := { s.dec with valid := false }
    src := s.src.spent
    env := askedMore s (inBytes s).length }

theorem State.built_setCodes_setSeqStep (s : State) (t : Tree) (seq : Nat) (c : Codes) :
    ((s.built t seq).setCodes c).setSeqStep 5#4 =
      { s with
        seqStep := 5#4, queue := { entries := [], seq := seq }, tree := t, codes := c,
        dec := { s.dec with valid := false } } := rfl

section
variable {t : Tree} {seq : Nat} {T : Shape} (h : Analysis s t seq T)
include h

theorem Analysis.encodeSteps_eq (z : Word) :
    encodeSteps z (s.scanned.setSeqStep 4#4) = containerSteps z (s.analysed t seq T) := by
  have hgen := cgGenerate_of_shows (s := (s.scanned.setSeqStep 4#4).built t seq) h.fits h.valid h.shows
  have hverify := cgVerify_of_codes_eq (s := ((s.scanned.setSeqStep 4#4).built t seq).setCodes { ct := T.codes, valid := true })
    h.fits rfl
  have hbuild : tbBuild (s.scanned.setSeqStep 4#4) = .ok () ((s.scanned.setSeqStep 4#4).built t seq) :=
    h.built (s.scanned.setSeqStep 4#4) rfl rfl rfl
  rw [encodeSteps, Cmd.run_bind_ok hbuild, Cmd.run_bind_ok hgen, Cmd.run_bind_ok hverify,
    Cmd.run_bind_ok (seqStep_eq _ _), State.built_setCodes_setSeqStep]
  rfl

theorem Analysis.known : ∀ x ∈ inBytes s, (ctAt T.codes x).valid = true := fun x hx =>
  (h.fits.codes_of_mem (h.spelled x hx)).1

omit h in
theorem inBytes_analysed (s : State) (t : Tree) (seq : Nat) (T : Shape) : inBytes (s.analysed t seq T) = inBytes s :=
  inBytes_congr rfl rfl

theorem Analysis.canPack (hlack : ∃ x, x ∉ inBytes s) (hlt : ∀ x, (inBytes s).count x < 2 ^ 32) :
    CanPack (s.analysed t seq T) where
  codes := rfl
  known := by
    rw [inBytes_analysed]
    exact h.known
  few := (counts_tableOf (inBytes s)).ftN_le hlack
  room := by
    have hlen : (inBytes s).length ≤ 256 * 2 ^ 32 := length_le_of_count_lt hlt
    have hbits := length_payloadBits_le T.codes (inBytes s)
    rw [inBytes_analysed, length_packedBytes]
    show ((payloadBits T.codes (inBytes s)).length + 7) / 8 + 2048 < 2 ^ 64
    omega

omit h in
theorem header0_analysed (z : Word) : (s.analysed t seq T).header0 z =
    headerOf z (BitVec.ofNat 8 (distinctSyms (inBytes s)).length) 0#8 (countsOf (inBytes s)) := by
  have hcounts := counts_tableOf (inBytes s)
  rw [State.header0, State.analysed, hcounts.ftN_eq, hcounts.entriesOf_eq]

omit h in
theorem container0_analysed (z : Word) : (s.analysed t seq T).container0 z =
    headerOf z (BitVec.ofNat 8 (distinctSyms (inBytes s)).length) 0#8 (countsOf (inBytes s)) ++
      packedBytes (payloadBits T.codes (inBytes s)) := by
  rw [State.container0, header0_analysed, inBytes_analysed]
  rfl

omit h in
theorem stepAsks_ite_singleton (n : BitVec 4) (p : Prop) [Decidable p] (a : Access) :
    stepAsks n (if p then [] else [a]) = if p then [] else [(n, a)] := by
  split <;> rfl

/-- The accesses of COMPRESS are those of the scan, then those of steps 5 to 8. -/
theorem Analysis.compressSteps_eq (hlack : ∃ x, x ∉ inBytes s) (hlt : ∀ x, (inBytes s).count x < 2 ^ 32) (z : Word) :
    compressSteps T.codes (inBytes s) =
      stepAsks 1#4 (readAsks 0#64 (inBytes s).length) ++ (s.analysed t seq T).containerAsks z := by
  have hlen : ((s.analysed t seq T).header0 z).length = 12 + 5 * (distinctSyms (inBytes s)).length := by
    rw [header0_analysed, length_headerOf, countsOf, List.length_map]
  rw [State.containerAsks, (h.canPack hlack hlt).payloadAsks_eq, hlen, inBytes_analysed, compressSteps]
  rw [stepAsks_ite_singleton]
  simp only [stepAsks, List.append_assoc]
  rfl

end

end

end Sys2Proof.Machine
end

section
/-! COMPRESS as a whole (47_compress_sequencer.md R141, R142, R146, R148). -/
namespace Sys2Proof.Machine

section
variable {s t : State}

theorem exec_compress_of_raised {e : ErrKind} (h : compress s = .error (.raised e) t) :
    exec .compress s = .next (t.setStatus e.code) := by
  show finish (compress s) = _
  rw [h]
  rfl

theorem exec_compress_of_ioFailed {sp : Space} (h : compress s = .error (.ioFailed sp) t) :
    exec .compress s = .next (t.setStatus 0x01#8) := by
  show finish (compress s) = _
  rw [h]
  rfl

theorem exec_compress_of_ok (h : compress s = .ok () t) : exec .compress s = .next (t.setStatus 0x00#8) := by
  show finish (compress s) = _
  rw [h]
  rfl

end

/-- Settles O39: the scan completes, and the first or the second check refuses the table. -/
theorem compressRefusals : Obligations.CompressRefusals := by
  refine fun s => ⟨fun h => ?_, fun h hlt hio => ?_⟩
  · have hrun := (compress_of_scanned (s := s) (by rw [h]; exact noneFails_of_lt nofun)
      (by rw [h]; exact fun _ => Nat.two_pow_pos 32)).trans
      (checkedSteps_of_empty _ h)
    exact ⟨_, exec_compress_of_raised hrun, rfl, rfl, rfl⟩
  · exact ⟨_, exec_compress_of_raised ((compress_of_scanned hio hlt).trans (checkedSteps_of_full _ h)), rfl, rfl, rfl⟩

section
variable {s : State} {t : Tree} {seq : Nat} {T : Shape} (h : Analysis s t seq T) (hne : inBytes s ≠ [])
  (hlack : ∃ x, x ∉ inBytes s) (hlt : ∀ x, (inBytes s).count x < 2 ^ 32)
include h hne hlack hlt

theorem Analysis.compress_eq (hio : NoneFails s (readAsks 0#64 (inBytes s).length)) :
    compress s = containerSteps s.src.len (s.analysed t seq T) := by
  rw [compress_of_scanned hio hlt, checkedSteps_of_admitted _ hne hlack, h.encodeSteps_eq]

omit h hne hlack hlt in
theorem env_analysed : (s.analysed t seq T).env = askedMore s (readAsks 0#64 (inBytes s).length).length := by
  rw [length_readAsks]
  rfl

theorem Analysis.compress_of_noneFails (hio : NoneFails s (compressAsks T.codes (inBytes s))) :
    compress s = .ok ()
      { s with
        seqStep := 0#4, ft := tableOf (countsOf (inBytes s)), queue := { entries := [], seq := seq }, tree := t
        codes := { ct := T.codes, valid := true }, dec := { s.dec with valid := false }
        sink := (s.analysed t seq T).container s.src.len (payloadBits T.codes (inBytes s))
        bw := { cur := 0#8, nbits := 0#3, total := (payloadBits T.codes (inBytes s)).length }
        src := s.src.spent
        env := askedMore s (compressAsks T.codes (inBytes s)).length } := by
  rw [compressAsks, h.compressSteps_eq hlack hlt s.src.len] at hio ⊢
  obtain ⟨hscan, hio⟩ := hio.step env_analysed
  rw [h.compress_eq hne hlack hlt hscan, (h.canPack hlack hlt).containerSteps_of_noneFails _ hio]
  have henv : askedMore (s.analysed t seq T) ((s.analysed t seq T).containerAsks s.src.len).length = askedMore s
      ((stepAsks 1#4 (readAsks 0#64 (inBytes s).length) ++ (s.analysed t seq T).containerAsks s.src.len).map
        Prod.snd).length := by
    rw [askedMore_askedMore env_analysed, List.length_map, List.length_append, length_stepAsks]
  rw [← henv, inBytes_analysed]
  rfl

end

section
variable {s : State} {t : Tree} {seq : Nat} {T : Shape} (h : Analysis s t seq T)
include h

/-- TB_BUILD and CG_GENERATE on the table of the input's counts make this tree and these codes. -/
theorem Analysis.exec_tbBuild :
    exec .tbBuild { s with ft := tableOf (countsOf (inBytes s)) } =
      .next (((s.setFt (tableOf (countsOf (inBytes s)))).setSeqStep 0#4).built t seq |>.setStatus 0x00#8) :=
  issue_of_ok (h.built ((s.setFt (tableOf (countsOf (inBytes s)))).setSeqStep 0#4) rfl rfl rfl)

theorem Analysis.exec_cgGenerate {v : State} (hv : v.tree = t) :
    exec .cgGenerate v = .next (ended (v.setCodes { ct := T.codes, valid := true }) 0x00#8) := by
  subst hv
  exact exec_cgGenerate_of_shows h.fits h.valid h.shows

end

/-- Settles O40: the scan, the tree and the codes of the counts, then the container they make. -/
theorem compressWritesContainer : Obligations.CompressWritesContainer := by
  intro s hwf hne hlack hlt
  obtain ⟨t, seq, T, h⟩ := exists_analysis hne hlack
  have hpack := h.canPack hlack hlt
  have hout := hpack.container_holds s.src.len hwf
  rw [inBytes_analysed] at hout
  refine ⟨_, _, h.exec_tbBuild, h.exec_cgGenerate rfl, rfl, rfl, h.valid, rfl, rfl, fun x hx => ⟨h.known x hx, ?_⟩,
    fun hio => ?_⟩
  · have hlen := codesHaveLength_iff.1 (codesOk_iff.1 h.fits.codesOk).1 x (h.known x hx)
    show 1 ≤ (ctAt T.codes x).len.toNat
    bv_omega
  · refine ⟨_, _, exec_compress_of_ok (h.compress_of_noneFails hne hlack hlt hio), ?_, packs_packedBytes _, hout.atEnd,
      hout.wf, hout.above, ?_⟩
    · refine hout.bytes.trans ?_
      rw [State.containerBytes, State.analysed, (counts_tableOf _).ftN_eq, (counts_tableOf _).entriesOf_eq]
      rfl
    · rfl

/-! ### Faults -/

/-- The outcomes of COMPRESS: STATUS and SEQ_STEP (47_compress_sequencer.md R146). -/
def compressOutcomes : List (Byte × BitVec 4) :=
  [(0x00#8, 0#4), (0x01#8, 1#4), (0x81#8, 1#4), (0x02#8, 2#4), (0x03#8, 3#4), (0x01#8, 5#4), (0x01#8, 6#4), (0x01#8, 7#4),
    (0x01#8, 8#4)]

/-- The steps of the accesses after the scan. -/
theorem containerAsks_step {s : State} {z : Word} {n : BitVec 4} {a : Access} (h : (n, a) ∈ s.containerAsks z) :
    n = 5#4 ∨ n = 6#4 ∨ n = 7#4 ∨ n = 8#4 := by
  simp only [State.containerAsks, State.payloadAsks, List.mem_append, stepAsks, List.mem_map, Prod.mk.injEq] at h
  obtain ⟨-, -, rfl, -⟩ | ⟨-, -, rfl, -⟩ | ⟨-, -, rfl, -⟩ | ⟨-, -, rfl, -⟩ := h
  · exact .inl rfl
  · exact .inr (.inl rfl)
  · exact .inr (.inr (.inl rfl))
  · exact .inr (.inr (.inr rfl))

section
variable {s : State} {t : Tree} {seq : Nat} {T : Shape} (h : Analysis s t seq T) (hne : inBytes s ≠ [])
  (hlack : ∃ x, x ∉ inBytes s) (hlt : ∀ x, (inBytes s).count x < 2 ^ 32)
include h hne hlack hlt

/-- The first access that fails ends COMPRESS at its step, and from step 5 on OUT has the first bytes of the container. -/
theorem Analysis.compress_of_firstFails {k : Nat} {n : BitVec 4} {a : Access}
    (hio : FirstFails s (compressAsks T.codes (inBytes s)) k) (hk : (compressSteps T.codes (inBytes s))[k]? = some (n, a)) :
    ∃ sp v, compress s = .error (.ioFailed sp) v ∧ v.seqStep = n ∧
      (n = 1#4 ∧ v.sink = s.sink ∨ (n = 5#4 ∨ n = 6#4 ∨ n = 7#4 ∨ n = 8#4) ∧
        v.sink = s.opened.sink.putAll (((s.analysed t seq T).container0 s.src.len).take
          (writesBefore (compressAsks T.codes (inBytes s)) k))) := by
  rw [compressAsks, h.compressSteps_eq hlack hlt s.src.len] at hio ⊢
  rw [h.compressSteps_eq hlack hlt s.src.len] at hk
  obtain ⟨hfail, rfl, -⟩ | ⟨hscan, j, hio, hj, hcount⟩ := hio.step_cases hk env_analysed
  · have hcount : ∀ x, ((inBytes s).take k).count x < 2 ^ 32 := fun x =>
      ((List.take_sublist _ _).count_le x).trans_lt (hlt x)
    obtain ⟨v, hrun, hstep, hsink⟩ := compress_of_scan_ioFails hfail hcount
    exact ⟨_, v, hrun, hstep, .inl ⟨rfl, hsink⟩⟩
  · obtain ⟨sp, v, hrun, hstep, hsink⟩ := (h.canPack hlack hlt).containerSteps_of_firstFails s.src.len rfl hio hj
    refine ⟨sp, v, (h.compress_eq hne hlack hlt hscan).trans hrun, hstep,
      .inr ⟨containerAsks_step (List.mem_of_getElem? hj), ?_⟩⟩
    rw [hsink, hcount, writesBefore_readAsks, Nat.zero_add]
    rfl

end

/-- What COMPRESS leaves: one of its outcomes, and OUT as it was where it ends before step 5. -/
structure CompressEnds (s t : State) : Prop where
  outcome : (t.status, t.seqStep) ∈ compressOutcomes
  sink : 1#4 ≤ t.seqStep → t.seqStep ≤ 4#4 → t.sink = s.sink

theorem CompressEnds.early {s t : State} {c : Byte} {n : BitVec 4} (hstep : t.seqStep = n) (hsink : t.sink = s.sink)
    (hc : (c, n) ∈ compressOutcomes) : CompressEnds s (t.setStatus c) :=
  ⟨hstep ▸ hc, fun _ _ => hsink⟩

theorem CompressEnds.late {s t : State} {c : Byte} {n : BitVec 4} (hstep : t.seqStep = n) (hn : n = 0#4 ∨ 5#4 ≤ n)
    (hc : (c, n) ∈ compressOutcomes) : CompressEnds s (t.setStatus c) := by
  refine ⟨hstep ▸ hc, fun h1 h4 => ?_⟩
  have h1 : 1#4 ≤ t.seqStep := h1
  have h4 : t.seqStep ≤ 4#4 := h4
  rw [hstep] at h1 h4
  bv_omega

theorem Analysis.exec_compress_ends {s : State} {t : Tree} {seq : Nat} {T : Shape} (h : Analysis s t seq T)
    (hne : inBytes s ≠ []) (hlack : ∃ x, x ∉ inBytes s) (hlt : ∀ x, (inBytes s).count x < 2 ^ 32) :
    ∃ v, exec .compress s = .next v ∧ CompressEnds s v := by
  obtain hio | ⟨k, hio⟩ := noneFails_or_firstFails s (compressAsks T.codes (inBytes s))
  · exact ⟨_, exec_compress_of_ok (h.compress_of_noneFails hne hlack hlt hio), .late (n := 0#4) rfl (.inl rfl) (by decide)⟩
  · have hlen : k < (compressSteps T.codes (inBytes s)).length := by
      have := hio.lt
      rwa [compressAsks, List.length_map] at this
    obtain ⟨sp, v, hrun, hstep, ⟨hn, hsink⟩ | ⟨hn, -⟩⟩ :=
      h.compress_of_firstFails hne hlack hlt hio (List.getElem?_eq_getElem hlen)
    · exact ⟨_, exec_compress_of_ioFailed hrun, .early (hstep.trans hn) hsink (by decide)⟩
    · obtain hn | hn | hn | hn := hn <;>
        exact ⟨_, exec_compress_of_ioFailed hrun, .late (hstep.trans hn) (.inr (by decide)) (by decide)⟩

/-- Whatever the state and the oracle. -/
theorem exec_compress_ends (s : State) : ∃ t, exec .compress s = .next t ∧ CompressEnds s t := by
  obtain ⟨hio, hlt⟩ | ⟨k, hio, hlt⟩ | ⟨done, hover, hio⟩ := scan_cases s
  · by_cases hne : inBytes s = []
    · exact ⟨_, exec_compress_of_raised ((compress_of_scanned hio hlt).trans (checkedSteps_of_empty _ hne)),
        .early (n := 2#4) rfl rfl (by decide)⟩
    · by_cases hall : ∀ v, v ∈ inBytes s
      · exact ⟨_, exec_compress_of_raised ((compress_of_scanned hio hlt).trans (checkedSteps_of_full _ hall)),
          .early (n := 3#4) rfl rfl (by decide)⟩
      · obtain ⟨t, seq, T, h⟩ := exists_analysis hne (not_forall.1 hall)
        exact h.exec_compress_ends hne (not_forall.1 hall) hlt
  · obtain ⟨t, hrun, hstep, hsink⟩ := compress_of_scan_ioFails hio hlt
    exact ⟨_, exec_compress_of_ioFailed hrun, .early hstep hsink (by decide)⟩
  · obtain ⟨t, hrun, hstep, hsink⟩ := compress_of_overflow hover hio
    exact ⟨_, exec_compress_of_raised hrun, .early hstep hsink (by decide)⟩

/-- Settles O41: the scan in its three ways, the checks, then the first access that fails of those the codes fix. -/
theorem compressFaultTable : Obligations.CompressFaultTable := by
  intro s
  have hover (done : List Byte) (h : OverflowsAfter (inBytes s) done) (hio : NoneFails s (readAsks 0#64 (done.length + 1))) :
      ∃ t, exec .compress s = .next t ∧ t.status = 0x81#8 ∧ t.seqStep = 1#4 := by
    obtain ⟨t, hrun, hstep, -⟩ := compress_of_overflow h hio
    exact ⟨_, exec_compress_of_raised hrun, rfl, hstep⟩
  refine ⟨?_, fun k hio hlt => ?_, hover, fun hx hio => ?_, fun hwf hne hlack hlt v u k n a payload hv hu hio hk hpack => ?_⟩
  · obtain ⟨t, hrun, hends⟩ := exec_compress_ends s
    exact ⟨t, hrun, hends.outcome, hends.sink⟩
  · obtain ⟨t, hrun, hstep, -⟩ := compress_of_scan_ioFails hio hlt
    exact ⟨_, exec_compress_of_ioFailed hrun, rfl, hstep⟩
  · obtain ⟨done, h⟩ := exists_overflowsAfter hx
    exact hover done h (hio.readAsks_le h.length_lt)
  · obtain ⟨t, seq, T, h⟩ := exists_analysis hne hlack
    obtain rfl := Host.Outcome.next.inj (h.exec_tbBuild.symm.trans hv)
    obtain rfl := Host.Outcome.next.inj ((h.exec_cgGenerate rfl).symm.trans hu)
    obtain rfl := hpack.eq
    obtain ⟨sp, w, hrun, hstep, hout⟩ := h.compress_of_firstFails hne hlack hlt hio hk
    refine ⟨_, exec_compress_of_ioFailed hrun, rfl, hstep, fun hn => ?_⟩
    obtain ⟨rfl, -⟩ | ⟨-, hsink⟩ := hout
    · exact absurd hn (by decide)
    · rw [container0_analysed] at hsink
      have hroom := (h.canPack hlack hlt).container0_room s.src.len
        (writesBefore (compressAsks T.codes (inBytes s)) k)
      rw [container0_analysed] at hroom
      exact outBytes_opened (t := w.setStatus 0x01#8) hwf hroom hsink

end Sys2Proof.Machine
end

section
/-! The decode loop (48_decode_traversal.md R157, R159, R161) beside the walk over the bits it reads: one bit of both, then as
many as there are, up to the first access that fails. -/
namespace Sys2Proof.Machine

/-! ### A traversal -/

/-- The node that a bit leads to, and its record. -/
def State.child (s : State) (b : Bool) : NodeIx := s.tree.childAt s.dec.cur b

def State.childNode (s : State) (b : Bool) : Node := recordAt s.tree (s.child b).toNat

/-- The walk from where the traversal stands, and the accesses it asks. -/
def State.walk (s : State) (n : Nat) (bits : List Bool) : Walk := decodeWalk s.tree s.dec.cur n bits

def State.walkAsks (s : State) (n : Nat) (bits : List Bool) : List Access :=
  decodeAsks s.tree s.dec.cur n s.br.left.toNat s.src.pos s.sink.pos bits

/-- The access that the next bit asks, where none is in hand. -/
def State.fetchAsks (s : State) : List Access := if s.br.left = 0#4 then [(.inp, s.src.pos)] else []

/-- The state after a bit led to a node without a symbol. -/
def State.moved (s : State) (b : Bool) : State :=
  { s with
    br := (s.readBits 1).br, src := (s.readBits 1).src, env := (s.readBits 1).env
    dec := { s.dec with cur := s.child b } }

/-- The state after a bit led to a leaf whose symbol went out. -/
def State.spelled (s : State) (b : Bool) : State :=
  { s with
    br := (s.readBits 1).br, src := (s.readBits 1).src, env := askedMore (s.readBits 1) 1
    sink := s.sink.put (s.childNode b).sym
    dec := { s.dec with count := s.dec.count + 1#64, cur := s.tree.root } }

/-- The state after a walk. -/
def State.walked (s : State) (w : Walk) : State :=
  { s with
    br := (s.readBits w.used).br, src := (s.readBits w.used).src, env := askedMore (s.readBits w.used) w.syms.length
    sink := s.sink.putAll w.syms
    dec := { s.dec with cur := w.node, count := s.dec.count + BitVec.ofNat 64 w.syms.length } }

theorem State.readBits_frame (s : State) (k : Nat) :
    s.readBits k = { s with br := (s.readBits k).br, src := (s.readBits k).src, env := (s.readBits k).env } := rfl

theorem State.readBits_setDec (s : State) (b : Bool) :
    (s.readBits 1).setDec { s.dec with cur := s.child b } = s.moved b := by
  rw [State.readBits_frame]
  rfl

theorem State.readBits_emitted (s : State) (b : Bool) : (s.readBits 1).emitted (s.childNode b).sym = s.spelled b := by
  rw [State.readBits_frame]
  rfl

/-- The traversal stands at an Internal node of a tree of 10_state.md R27, with these bits to read, n symbols to spell and
room for them. -/
structure Traversing (n : Nat) (bits : List Bool) (s : State) : Prop where
  bits : availableBits s = bits
  left : s.br.left ≤ 8#4
  tree : TreeInv s.tree
  cur_lt : s.dec.cur.toNat < s.tree.cnt.toNat
  cur_internal : (recordAt s.tree s.dec.cur.toNat).kind = .internal
  room : s.sink.Room n
  count : s.dec.count.toNat + n = s.hdr.size.toNat ∨ n = 0 ∧ s.hdr.size.toNat ≤ s.dec.count.toNat

section
variable {s : State} {n : Nat} {b : Bool} {bits : List Bool}

theorem Traversing.child_lt (h : Traversing n bits s) (b : Bool) : (s.child b).toNat < s.tree.cnt.toNat := by
  have hlt := h.tree.childrenBelow _ h.cur_lt (s.child b) (by
    rw [Node.children_of_internal h.cur_internal, State.child, Tree.childAt]
    cases b <;> simp)
  exact hlt.trans h.cur_lt

theorem Traversing.nodeAt_child (h : Traversing n bits s) (b : Bool) :
    nodeAt s.tree.node (s.child b) = some (s.childNode b) :=
  nodeAt_eq_recordAt s.tree (by
    have := h.child_lt b
    have := s.tree.cnt.isLt
    omega)

theorem Traversing.child_ne_null (h : Traversing n bits s) (b : Bool) : s.child b ≠ Config.null :=
  ne_null_of_nodeAt (h.nodeAt_child b)

theorem Traversing.decStepBody_eq (h : Traversing n (b :: bits) s)
    (hio : s.br.left = 0#4 → ioFails s.env .inp s.src.pos = false) :
    decStepBody s = descend (s.child b) (s.readBits 1) := by
  have hlt : s.dec.cur.toNat < 511 := by
    have := h.cur_lt
    have := s.tree.cnt.isLt
    omega
  have hnode : nodeAt (s.readBits 1).tree.node (s.readBits 1).dec.cur = some (recordAt s.tree s.dec.cur.toNat) :=
    nodeAt_eq_recordAt s.tree hlt
  exact decStepBody_of_readBit (readBit_of_bit h.bits h.left hio) hnode

theorem Traversing.count_lt (h : Traversing (n + 1) bits s) : s.dec.count.toNat < s.hdr.size.toNat := by
  have := h.count
  omega

theorem Traversing.more (h : Traversing (n + 1) bits s) : moreToDecode s = true :=
  decide_eq_true (BitVec.lt_def.2 h.count_lt)

theorem Traversing.no_more (h : Traversing 0 bits s) : moreToDecode s = false := by
  refine decide_eq_false (BitVec.not_lt.2 ?_)
  rw [BitVec.le_def]
  have := h.count
  omega

theorem Traversing.moved (h : Traversing n (b :: bits) s) (hk : (s.childNode b).kind = .internal) :
    Traversing n bits (s.moved b) :=
  ⟨availableBits_readBits_one h.bits, left_readBits_one h.left, h.tree, h.child_lt b, hk, h.room, h.count⟩

theorem Traversing.root_lt (h : Traversing n bits s) : s.tree.root.toNat < s.tree.cnt.toNat := by
  have := h.tree.rootLast
  omega

theorem Traversing.spelled (h : Traversing (n + 1) (b :: bits) s) : Traversing n bits (s.spelled b) where
  bits := availableBits_readBits_one h.bits
  left := left_readBits_one h.left
  tree := h.tree
  cur_lt := h.root_lt
  cur_internal := h.tree.rootInternal
  room := h.room.put _
  count := by
    have hlt := h.count_lt
    have hcount := h.count
    have hsize := s.hdr.size.isLt
    have hnext : (s.dec.count + 1#64).toNat = s.dec.count.toNat + 1 := by
      rw [BitVec.toNat_add, BitVec.toNat_ofNat]
      omega
    show (s.dec.count + 1#64).toNat + n = s.hdr.size.toNat ∨ n = 0 ∧ s.hdr.size.toNat ≤ (s.dec.count + 1#64).toNat
    rw [hnext]
    omega

/-! ### One bit of the walk -/

theorem walk_zero (s : State) (bits : List Bool) :
    s.walk 0 bits = { syms := [], node := s.dec.cur, used := 0, outcome := .reached } := decodeWalk_zero _ _ _

theorem walk_nil (s : State) (n : Nat) :
    s.walk (n + 1) [] = { syms := [], node := s.dec.cur, used := 0, outcome := .ranOut } := decodeWalk_nil _ _ _

theorem Traversing.walk_internal {m : Nat} {rest : List Bool} (h : Traversing m rest s) (n : Nat) (bits : List Bool)
    (hk : (s.childNode b).kind = .internal) :
    s.walk (n + 1) (b :: bits) =
      { (s.moved b).walk (n + 1) bits with used := ((s.moved b).walk (n + 1) bits).used + 1 } := by
  have hk : (recordAt s.tree (s.tree.childAt s.dec.cur b).toNat).kind = .internal := hk
  rw [State.walk, decodeWalk_cons, if_neg (show s.tree.childAt s.dec.cur b ≠ Config.null from h.child_ne_null b), hk]
  rfl

theorem Traversing.walk_filler {m : Nat} {rest : List Bool} (h : Traversing m rest s) (n : Nat) (bits : List Bool)
    (hk : (s.childNode b).kind = .leaf) (hf : (s.childNode b).filler = true) :
    s.walk (n + 1) (b :: bits) = { syms := [], node := s.dec.cur, used := 1, outcome := .deadEnd } := by
  have hk : (recordAt s.tree (s.tree.childAt s.dec.cur b).toNat).kind = .leaf := hk
  have hf : (recordAt s.tree (s.tree.childAt s.dec.cur b).toNat).filler = true := hf
  rw [State.walk, decodeWalk_cons, if_neg (show s.tree.childAt s.dec.cur b ≠ Config.null from h.child_ne_null b), hk, hf]
  rfl

theorem Traversing.walk_leaf {m : Nat} {rest : List Bool} (h : Traversing m rest s) (n : Nat) (bits : List Bool)
    (hk : (s.childNode b).kind = .leaf) (hf : (s.childNode b).filler = false) :
    s.walk (n + 1) (b :: bits) =
      { (s.spelled b).walk n bits with
        syms := (s.childNode b).sym :: ((s.spelled b).walk n bits).syms
        used := ((s.spelled b).walk n bits).used + 1 } := by
  have hk : (recordAt s.tree (s.tree.childAt s.dec.cur b).toNat).kind = .leaf := hk
  have hf : (recordAt s.tree (s.tree.childAt s.dec.cur b).toNat).filler = false := hf
  rw [State.walk, decodeWalk_cons, if_neg (show s.tree.childAt s.dec.cur b ≠ Config.null from h.child_ne_null b), hk, hf]
  rfl

end

/-! ### The state after a walk -/

theorem State.readBits_congr {s t : State} (hbr : s.br = t.br) (hsrc : s.src = t.src) (k : Nat) :
    (s.readBits k).br = (t.readBits k).br ∧ (s.readBits k).src = (t.readBits k).src := by
  have hun : unread s = unread t := unread_congr hsrc
  have hleft : (s.readBits k).br = s.br.after (unread s) k := rfl
  have hright : (t.readBits k).br = t.br.after (unread t) k := rfl
  have hleft' : (s.readBits k).src = { s.src with pos := s.src.pos + BitVec.ofNat 64 (s.br.fetched k) } := rfl
  have hright' : (t.readBits k).src = { t.src with pos := t.src.pos + BitVec.ofNat 64 (t.br.fetched k) } := rfl
  rw [hleft, hright, hleft', hright', hun, hbr, hsrc]
  exact ⟨rfl, rfl⟩

theorem State.readBits_env (s : State) (k : Nat) : (s.readBits k).env = askedMore s (s.br.fetched k) := rfl

theorem State.walked_zero (s : State) (o : WalkEnd) :
    s.walked { syms := [], node := s.dec.cur, used := 0, outcome := o } = s := by
  rw [State.walked, State.readBits_zero]
  show { s with dec := { s.dec with cur := s.dec.cur, count := s.dec.count + 0#64 } } = s
  rw [BitVec.add_zero]

theorem State.walked_one (s : State) (o : WalkEnd) :
    s.walked { syms := [], node := s.dec.cur, used := 1, outcome := o } = s.readBits 1 := by
  rw [State.walked, State.readBits_frame s 1]
  show { s with
    br := (s.readBits 1).br, src := (s.readBits 1).src, env := (s.readBits 1).env,
    dec := { s.dec with cur := s.dec.cur, count := s.dec.count + 0#64 } } = _
  rw [BitVec.add_zero]

section
variable {s : State} {n : Nat} {b : Bool} {bits : List Bool}

/-- One bit read, then k more, on a state that has the reader and the source of the first. -/
theorem Traversing.readBits_succ (h : Traversing n (b :: bits) s) {t : State} {m : Nat} (hbr : t.br = (s.readBits 1).br)
    (hsrc : t.src = (s.readBits 1).src) (henv : t.env = askedMore (s.readBits 1) m) (k : Nat) :
    (t.readBits k).br = (s.readBits (k + 1)).br ∧ (t.readBits k).src = (s.readBits (k + 1)).src ∧
      (t.readBits k).env = askedMore (s.readBits (k + 1)) m := by
  obtain ⟨hb, hs⟩ := State.readBits_congr hbr hsrc k
  rw [State.readBits_one_readBits h.bits h.left] at hb hs
  refine ⟨hb, hs, ?_⟩
  have he : (s.readBits (k + 1)).env = askedMore (s.readBits 1) ((s.readBits 1).br.fetched k) := by
    rw [← State.readBits_one_readBits h.bits h.left]
    rfl
  rw [State.readBits_env, askedMore_askedMore henv, askedMore_askedMore he, hbr, Nat.add_comm]

theorem Traversing.walked_moved (h : Traversing n (b :: bits) s) (w : Walk) :
    (s.moved b).walked w = s.walked { w with used := w.used + 1 } := by
  obtain ⟨hbr, hsrc, henv⟩ := h.readBits_succ (t := s.moved b) (m := 0) rfl rfl rfl w.used
  rw [State.walked, State.walked, hbr, hsrc, askedMore_askedMore henv, Nat.zero_add]
  rfl

theorem Traversing.walked_spelled (h : Traversing n (b :: bits) s) (w : Walk) :
    (s.spelled b).walked w = s.walked { w with syms := (s.childNode b).sym :: w.syms, used := w.used + 1 } := by
  obtain ⟨hbr, hsrc, henv⟩ := h.readBits_succ (t := s.spelled b) (m := 1) rfl rfl rfl w.used
  have hcount : s.dec.count + 1#64 + BitVec.ofNat 64 w.syms.length =
      s.dec.count + BitVec.ofNat 64 (w.syms.length + 1) := by
    rw [BitVec.add_assoc, BitVec.ofNat_add, BitVec.add_comm 1#64]
  rw [State.walked, State.walked, hbr, hsrc, askedMore_askedMore henv, Nat.add_comm 1, List.length_cons, ← hcount]
  rfl

end

/-! ### One bit of the accesses -/

theorem decodeAsks_cons (t : Tree) (i : NodeIx) (n left : Nat) (p q : Word) (b : Bool) (bs : List Bool) :
    decodeAsks t i (n + 1) left p q (b :: bs) =
      if t.childAt i b = Config.null then (if left = 0 then [(.inp, p)] else [])
      else match (recordAt t (t.childAt i b).toNat).kind with
        | .internal => (if left = 0 then [(.inp, p)] else []) ++ decodeAsks t (t.childAt i b) (n + 1)
            (if left = 0 then 7 else left - 1) (if left = 0 then p + 1#64 else p) q bs
        | .leaf =>
          if (recordAt t (t.childAt i b).toNat).filler then (if left = 0 then [(.inp, p)] else [])
          else (if left = 0 then [(.inp, p)] else []) ++ (.out, q) :: decodeAsks t t.root n
            (if left = 0 then 7 else left - 1) (if left = 0 then p + 1#64 else p) (q + 1#64) bs := rfl

theorem State.fetchAsks_eq (s : State) :
    s.fetchAsks = if s.br.left.toNat = 0 then [(.inp, s.src.pos)] else [] := by
  by_cases h : s.br.left = 0#4
  · rw [State.fetchAsks, if_pos h, h]
    rfl
  · have hne : s.br.left.toNat ≠ 0 := fun h0 => h (BitVec.eq_of_toNat_eq h0)
    rw [State.fetchAsks, if_neg h, if_neg hne]

theorem State.readBits_one_eq (s : State) :
    (s.readBits 1).br.left.toNat = (if s.br.left.toNat = 0 then 7 else s.br.left.toNat - 1) ∧
      (s.readBits 1).src.pos = (if s.br.left.toNat = 0 then s.src.pos + 1#64 else s.src.pos) := by
  have hleft : (s.readBits 1).br.left = (s.br.after (unread s) 1).left := rfl
  have hpos : (s.readBits 1).src.pos = s.src.pos + BitVec.ofNat 64 (s.br.fetched 1) := rfl
  rw [hleft, hpos]
  by_cases h : s.br.left = 0#4
  · rw [BitReader.after, BitReader.fetched, h]
    exact ⟨rfl, rfl⟩
  · obtain ⟨hone, hfetched⟩ := BitReader.after_one_of_left h (unread s)
    have hne : s.br.left.toNat ≠ 0 := fun h0 => h (BitVec.eq_of_toNat_eq h0)
    rw [hone, hfetched, if_neg hne, if_neg hne, BitVec.add_zero]
    refine ⟨?_, rfl⟩
    show (s.br.left - 1#4).toNat = _
    bv_omega

theorem State.length_fetchAsks (s : State) : s.fetchAsks.length = s.br.fetched 1 := by
  rw [State.fetchAsks_eq, BitReader.fetched]
  split
  · rename_i h
    rw [h]
    rfl
  · rename_i h
    rw [Nat.sub_eq_zero_of_le (Nat.one_le_iff_ne_zero.2 h)]
    rfl

theorem State.readCount_fetchAsks (s : State) : readCount s.fetchAsks = s.br.fetched 1 := by
  rw [← s.length_fetchAsks, State.fetchAsks]
  split <;> rfl

theorem State.fetched_succ (s : State) (k : Nat) : s.br.fetched (k + 1) = s.br.fetched 1 + (s.readBits 1).br.fetched k := by
  rw [BitReader.fetched, BitReader.fetched, BitReader.fetched, s.readBits_one_eq.1]
  split <;> omega

theorem readCount_cons_out (q : Word) (as : List Access) : readCount ((.out, q) :: as) = readCount as := rfl

theorem State.env_readBits_one (s : State) : (s.readBits 1).env = askedMore s s.fetchAsks.length := by
  rw [s.length_fetchAsks]
  rfl

theorem noneFails_fetchAsks {s : State} (h : NoneFails s s.fetchAsks) :
    s.br.left = 0#4 → ioFails s.env .inp s.src.pos = false := by
  intro h0
  rw [State.fetchAsks, if_pos h0] at h
  exact ((noneFails_cons (t := s.failedAsk) rfl _ _).1 h).1

theorem firstFails_fetchAsks {s : State} {k : Nat} (h : FirstFails s s.fetchAsks k) :
    k = 0 ∧ s.br.left = 0#4 ∧ ioFails s.env .inp s.src.pos = true := by
  by_cases h0 : s.br.left = 0#4
  · rw [State.fetchAsks, if_pos h0] at h
    obtain rfl : k = 0 := Nat.lt_one_iff.1 (by simpa using h.lt)
    exact ⟨rfl, h0, (firstFails_zero _ _ _).1 h⟩
  · rw [State.fetchAsks, if_neg h0] at h
    exact absurd h.lt (Nat.not_lt_zero k)

section
variable {s : State} {b : Bool} {m : Nat} {rest : List Bool} (h : Traversing m rest s) (n : Nat) (bits : List Bool)
include h

theorem Traversing.walkAsks_internal (hk : (s.childNode b).kind = .internal) :
    s.walkAsks (n + 1) (b :: bits) = s.fetchAsks ++ (s.moved b).walkAsks (n + 1) bits := by
  have hk : (recordAt s.tree (s.tree.childAt s.dec.cur b).toNat).kind = .internal := hk
  obtain ⟨hleft, hpos⟩ := s.readBits_one_eq
  rw [State.walkAsks, decodeAsks_cons, if_neg (show s.tree.childAt s.dec.cur b ≠ Config.null from h.child_ne_null b), hk,
    ← hleft, ← hpos, ← State.fetchAsks_eq]
  rfl

theorem Traversing.walkAsks_filler (hk : (s.childNode b).kind = .leaf) (hf : (s.childNode b).filler = true) :
    s.walkAsks (n + 1) (b :: bits) = s.fetchAsks := by
  have hk : (recordAt s.tree (s.tree.childAt s.dec.cur b).toNat).kind = .leaf := hk
  have hf : (recordAt s.tree (s.tree.childAt s.dec.cur b).toNat).filler = true := hf
  rw [State.walkAsks, decodeAsks_cons, if_neg (show s.tree.childAt s.dec.cur b ≠ Config.null from h.child_ne_null b), hk,
    hf, ← State.fetchAsks_eq]
  rfl

theorem Traversing.walkAsks_leaf (hend : s.sink.pos = s.sink.len) (hk : (s.childNode b).kind = .leaf)
    (hf : (s.childNode b).filler = false) :
    s.walkAsks (n + 1) (b :: bits) = s.fetchAsks ++ (.out, s.sink.pos) :: (s.spelled b).walkAsks n bits := by
  have hk : (recordAt s.tree (s.tree.childAt s.dec.cur b).toNat).kind = .leaf := hk
  have hf : (recordAt s.tree (s.tree.childAt s.dec.cur b).toNat).filler = false := hf
  obtain ⟨hleft, hpos⟩ := s.readBits_one_eq
  rw [State.walkAsks, decodeAsks_cons, if_neg (show s.tree.childAt s.dec.cur b ≠ Config.null from h.child_ne_null b), hk,
    hf, ← hleft, ← hpos, ← State.fetchAsks_eq, hend]
  rfl

end

/-! ### One bit of the loop -/

section
variable {s : State} {n : Nat} {b : Bool} {bits : List Bool} (h : Traversing n (b :: bits) s)
  (hio : s.br.left = 0#4 → ioFails s.env .inp s.src.pos = false)
include h hio

theorem Traversing.decStepBody_internal (hk : (s.childNode b).kind = .internal) : decStepBody s = .ok none (s.moved b) := by
  rw [h.decStepBody_eq hio, descend_of_internal (s := s.readBits 1) (h.nodeAt_child b) hk, ← State.readBits_setDec]
  rfl

theorem Traversing.decStepBody_filler (hk : (s.childNode b).kind = .leaf) (hf : (s.childNode b).filler = true) :
    decStepBody s = .error (.raised .corruptStream) (s.readBits 1) := by
  rw [h.decStepBody_eq hio, descend_of_filler (s := s.readBits 1) (h.nodeAt_child b) hk hf]

theorem Traversing.decStepBody_leaf_ioFails (hk : (s.childNode b).kind = .leaf) (hf : (s.childNode b).filler = false)
    (hout : ioFails (s.readBits 1).env .out s.sink.pos = true) :
    decStepBody s = .error (.ioFailed .out) (s.readBits 1).failedAsk := by
  rw [h.decStepBody_eq hio, descend_of_leaf (s := s.readBits 1) (h.nodeAt_child b) hk hf]
  exact emitSymbol_of_ioFails (s := s.readBits 1) _ hout

end

theorem Traversing.decStepBody_leaf {s : State} {n : Nat} {b : Bool} {bits : List Bool} (h : Traversing (n + 1) (b :: bits) s)
    (hio : s.br.left = 0#4 → ioFails s.env .inp s.src.pos = false) (hk : (s.childNode b).kind = .leaf)
    (hf : (s.childNode b).filler = false) (hout : ioFails (s.readBits 1).env .out s.sink.pos = false) :
    decStepBody s = .ok (some (s.childNode b).sym) (s.spelled b) := by
  have hcount : s.dec.count ≠ BitVec.allOnes 64 := by
    intro he
    have hlt := h.count_lt
    have hsize := s.hdr.size.isLt
    rw [he, BitVec.toNat_allOnes] at hlt
    omega
  rw [h.decStepBody_eq hio, descend_of_leaf (s := s.readBits 1) (h.nodeAt_child b) hk hf, ← State.readBits_emitted]
  exact emitSymbol_of_room (s := s.readBits 1) _ h.room hout hcount

theorem walkAsks_nil (s : State) (n : Nat) : s.walkAsks n [] = [] := decodeAsks_nil _ _ _ _ _ _

/-! ### As many bits as there are -/

/-- Induction along a traversal: no symbol left, no bit left, or one bit and then the rest. -/
theorem Traversing.induction {post : List Bool} {P : Nat → List Bool → State → Prop}
    (zero : ∀ bits s, Traversing 0 (bits ++ post) s → P 0 bits s)
    (nil : ∀ n s, Traversing (n + 1) post s → P (n + 1) [] s)
    (internal : ∀ n b bits s, Traversing (n + 1) (b :: (bits ++ post)) s → (s.childNode b).kind = .internal →
      P (n + 1) bits (s.moved b) → P (n + 1) (b :: bits) s)
    (filler : ∀ n b bits s, Traversing (n + 1) (b :: (bits ++ post)) s → (s.childNode b).kind = .leaf →
      (s.childNode b).filler = true → P (n + 1) (b :: bits) s)
    (leaf : ∀ n b bits s, Traversing (n + 1) (b :: (bits ++ post)) s → (s.childNode b).kind = .leaf →
      (s.childNode b).filler = false → P n bits (s.spelled b) → P (n + 1) (b :: bits) s)
    {bits : List Bool} {n : Nat} {s : State} (h : Traversing n (bits ++ post) s) : P n bits s := by
  induction bits generalizing n s with
  | nil =>
    cases n with
    | zero => exact zero [] s h
    | succ n => exact nil n s h
  | cons b bits ih =>
    cases n with
    | zero => exact zero (b :: bits) s h
    | succ n =>
      cases hk : (s.childNode b).kind with
      | internal => exact internal n b bits s h hk (ih (Traversing.moved h hk))
      | leaf =>
        cases hf : (s.childNode b).filler with
        | true => exact filler n b bits s h hk hf
        | false => exact leaf n b bits s h hk hf (ih (Traversing.spelled h))

/-- What the loop does after a walk: it ends where the walk has reached its last symbol or a dead end. -/
def afterWalk (k : Nat) (o : WalkEnd) (t : State) : EStateM.Result Stop State Unit :=
  match o with
  | .reached => .ok () t
  | .ranOut => decodeLoop k t
  | .deadEnd => .error (.raised .corruptStream) t

section
variable {post bits : List Bool} {n : Nat} {s : State}

/-- The accesses of a walk are those of its bytes and its symbols. -/
theorem Traversing.env_walked (h : Traversing n (bits ++ post) s) :
    (s.walked (s.walk n bits)).env = askedMore s (s.walkAsks n bits).length := by
  refine Traversing.induction (P := fun n bits s => (s.walked (s.walk n bits)).env = askedMore s (s.walkAsks n bits).length)
    (fun bits s _ => ?_) (fun n s _ => ?_) (fun n b bits s h hk ih => ?_) (fun n b bits s h hk hf => ?_)
    (fun n b bits s h hk hf ih => ?_) h
  · rw [walk_zero, State.walked_zero, State.walkAsks, decodeAsks_zero]
    rfl
  · rw [walk_nil, State.walked_zero, State.walkAsks, decodeAsks_nil]
    rfl
  · have hmoved : (s.moved b).env = askedMore s s.fetchAsks.length := s.env_readBits_one
    rw [h.walk_internal n bits hk, ← h.walked_moved, ih, h.walkAsks_internal n bits hk, List.length_append,
      askedMore_askedMore hmoved]
  · rw [h.walk_filler n bits hk hf, State.walked_one, h.walkAsks_filler n bits hk hf, s.env_readBits_one]
  · have hspelled : (s.spelled b).env = askedMore s (s.fetchAsks.length + 1) :=
      askedMore_askedMore s.env_readBits_one 1
    rw [h.walk_leaf n bits hk hf, ← h.walked_spelled, ih, h.walkAsks_leaf n bits h.room.atEnd hk hf, List.length_append,
      askedMore_askedMore hspelled, List.length_cons, Nat.add_assoc, Nat.add_comm 1]

/-- The loop does what the walk over the next bits says. -/
theorem Traversing.decodeLoop_eq (h : Traversing n (bits ++ post) s) (k : Nat) (hio : NoneFails s (s.walkAsks n bits)) :
    decodeLoop (bits.length + k) s = afterWalk k (s.walk n bits).outcome (s.walked (s.walk n bits)) := by
  refine Traversing.induction (P := fun n bits s => NoneFails s (s.walkAsks n bits) →
    decodeLoop (bits.length + k) s = afterWalk k (s.walk n bits).outcome (s.walked (s.walk n bits)))
    (fun bits s h _ => ?_) (fun n s _ _ => ?_) (fun n b bits s h hk ih hio => ?_) (fun n b bits s h hk hf hio => ?_)
    (fun n b bits s h hk hf ih hio => ?_) h hio
  · rw [decodeLoop_of_done h.no_more, walk_zero, State.walked_zero]
    rfl
  · rw [walk_nil, State.walked_zero, List.length_nil, Nat.zero_add]
    rfl
  · rw [h.walkAsks_internal n bits hk] at hio
    have hstep := h.decStepBody_internal (noneFails_fetchAsks hio.append_left) hk
    rw [List.length_cons, Nat.add_right_comm, decodeLoop_succ h.more, Cmd.run_bind_ok hstep,
      ih (hio.append_right s.env_readBits_one), h.walk_internal n bits hk, h.walked_moved]
  · rw [h.walkAsks_filler n bits hk hf] at hio
    have hstep := h.decStepBody_filler (noneFails_fetchAsks hio) hk hf
    rw [List.length_cons, Nat.add_right_comm, decodeLoop_succ h.more, Cmd.run_bind_error hstep, h.walk_filler n bits hk hf,
      State.walked_one]
    rfl
  · rw [h.walkAsks_leaf n bits h.room.atEnd hk hf] at hio
    have hlast := hio.append_right s.env_readBits_one
    rw [noneFails_cons (t := s.spelled b) rfl] at hlast
    have hstep := h.decStepBody_leaf (noneFails_fetchAsks hio.append_left) hk hf hlast.1
    rw [List.length_cons, Nat.add_right_comm, decodeLoop_succ h.more, Cmd.run_bind_ok hstep, ih hlast.2,
      h.walk_leaf n bits hk hf, h.walked_spelled]

/-- One walk after another. -/
def Walk.append (w v : Walk) : Walk :=
  { syms := w.syms ++ v.syms, node := v.node, used := w.used + v.used, outcome := v.outcome }

theorem decodeWalk_append_of_ranOut (t : Tree) {as : List Bool} {i : NodeIx} {n : Nat}
    (h : (decodeWalk t i n as).outcome = .ranOut) (bs : List Bool) :
    decodeWalk t i n (as ++ bs) = (decodeWalk t i n as).append
      (decodeWalk t (decodeWalk t i n as).node (n - (decodeWalk t i n as).syms.length) bs) := by
  induction as generalizing i n with
  | nil =>
    cases n with
    | zero => exact absurd h (by rw [decodeWalk_zero]; exact WalkEnd.noConfusion)
    | succ n =>
      rw [decodeWalk_nil, Walk.append, List.nil_append, Nat.zero_add]
      rfl
  | cons b as ih =>
    cases n with
    | zero => exact absurd h (by rw [decodeWalk_zero]; exact WalkEnd.noConfusion)
    | succ n =>
      rw [List.cons_append]
      rw [decodeWalk_cons] at h ⊢
      rw [decodeWalk_cons]
      split at h
      · cases h
      · rename_i hc
        rw [if_neg hc, if_neg hc]
        cases hk : (recordAt t (t.childAt i b).toNat).kind with
        | internal =>
          rw [hk] at h
          simp only [ih h, Walk.append, Nat.add_right_comm]
        | leaf =>
          cases hf : (recordAt t (t.childAt i b).toNat).filler with
          | true =>
            rw [hk, hf] at h
            cases h
          | false =>
            rw [hk, hf] at h
            simp only [Bool.false_eq_true, ↓reduceIte, ih h, Walk.append, List.cons_append, List.length_cons,
              Nat.add_sub_add_right, Nat.add_right_comm]

/-- A walk that runs out of bits does not see how many symbols more are asked for. -/
theorem decodeWalk_congr_of_ranOut (t : Tree) {bs : List Bool} {i : NodeIx} {m n : Nat}
    (h : (decodeWalk t i n bs).outcome = .ranOut) (hm : (decodeWalk t i n bs).syms.length < m) :
    decodeWalk t i m bs = decodeWalk t i n bs := by
  obtain ⟨m, rfl⟩ := Nat.exists_eq_add_one_of_ne_zero (Nat.ne_zero_of_lt hm)
  induction bs generalizing i m n with
  | nil =>
    cases n with
    | zero => exact absurd h (by rw [decodeWalk_zero]; exact WalkEnd.noConfusion)
    | succ n => rw [decodeWalk_nil, decodeWalk_nil]
  | cons b bs ih =>
    cases n with
    | zero => exact absurd h (by rw [decodeWalk_zero]; exact WalkEnd.noConfusion)
    | succ n =>
      rw [decodeWalk_cons] at h hm ⊢
      rw [decodeWalk_cons]
      split at h
      · cases h
      · rename_i hc
        rw [if_neg hc] at hm ⊢
        rw [if_neg hc]
        cases hk : (recordAt t (t.childAt i b).toNat).kind with
        | internal =>
          rw [hk] at h hm
          simp only [ih h m hm]
        | leaf =>
          cases hf : (recordAt t (t.childAt i b).toNat).filler with
          | true =>
            rw [hk, hf] at h
            cases h
          | false =>
            rw [hk, hf] at h hm
            obtain ⟨m, rfl⟩ := Nat.exists_eq_add_one_of_ne_zero (Nat.ne_zero_of_lt (Nat.succ_lt_succ_iff.1 hm))
            simp only [Bool.false_eq_true, ↓reduceIte, ih h m (Nat.succ_lt_succ_iff.1 hm)]

/-- A walk that has not run out of bits does not see further bits. -/
theorem Traversing.walk_append_of_ended (h : Traversing n (bits ++ post) s) (hend : (s.walk n bits).outcome ≠ .ranOut)
    (q : List Bool) : s.walk n (bits ++ q) = s.walk n bits ∧ s.walkAsks n (bits ++ q) = s.walkAsks n bits := by
  refine Traversing.induction (P := fun n bits s => (s.walk n bits).outcome ≠ .ranOut →
    s.walk n (bits ++ q) = s.walk n bits ∧ s.walkAsks n (bits ++ q) = s.walkAsks n bits)
    (fun bits s h _ => ?_) (fun n s _ hend => ?_) (fun n b bits s h hk ih hend => ?_) (fun n b bits s h hk hf hend => ?_)
    (fun n b bits s h hk hf ih hend => ?_) h hend
  · rw [walk_zero, walk_zero, State.walkAsks, State.walkAsks, decodeAsks_zero, decodeAsks_zero]
    exact ⟨rfl, rfl⟩
  · exact absurd rfl hend
  · rw [h.walk_internal n bits hk] at hend ⊢
    obtain ⟨hwalk, hasks⟩ := ih hend
    rw [List.cons_append, h.walk_internal n (bits ++ q) hk, h.walkAsks_internal n (bits ++ q) hk, h.walkAsks_internal n bits hk,
      hwalk, hasks]
    exact ⟨rfl, rfl⟩
  · rw [List.cons_append, h.walk_filler n (bits ++ q) hk hf, h.walk_filler n bits hk hf, h.walkAsks_filler n (bits ++ q) hk hf,
      h.walkAsks_filler n bits hk hf]
    exact ⟨rfl, rfl⟩
  · rw [h.walk_leaf n bits hk hf] at hend ⊢
    obtain ⟨hwalk, hasks⟩ := ih hend
    rw [List.cons_append, h.walk_leaf n (bits ++ q) hk hf, h.walkAsks_leaf n (bits ++ q) h.room.atEnd hk hf,
      h.walkAsks_leaf n bits h.room.atEnd hk hf, hwalk, hasks]
    exact ⟨rfl, rfl⟩

/-- Where the bits have run out the traversal can go on with more. -/
theorem Traversing.of_ranOut (h : Traversing n (bits ++ post) s) (hend : (s.walk n bits).outcome = .ranOut) :
    Traversing (n - (s.walk n bits).syms.length) post (s.walked (s.walk n bits)) ∧ (s.walk n bits).syms.length < n ∧
      (s.walk n bits).used = bits.length := by
  refine Traversing.induction (P := fun n bits s => (s.walk n bits).outcome = .ranOut →
    Traversing (n - (s.walk n bits).syms.length) post (s.walked (s.walk n bits)) ∧ (s.walk n bits).syms.length < n ∧
      (s.walk n bits).used = bits.length)
    (fun bits s h hend => ?_) (fun n s h _ => ?_) (fun n b bits s h hk ih hend => ?_) (fun n b bits s h hk hf hend => ?_)
    (fun n b bits s h hk hf ih hend => ?_) h hend
  · rw [walk_zero] at hend
    cases hend
  · rw [walk_nil, State.walked_zero]
    exact ⟨h, Nat.succ_pos n, rfl⟩
  · rw [h.walk_internal n bits hk] at hend ⊢
    obtain ⟨hnext, hlt, hused⟩ := ih hend
    rw [← h.walked_moved, List.length_cons, ← hused]
    exact ⟨hnext, hlt, rfl⟩
  · rw [h.walk_filler n bits hk hf] at hend
    cases hend
  · rw [h.walk_leaf n bits hk hf] at hend ⊢
    obtain ⟨hnext, hlt, hused⟩ := ih hend
    rw [← h.walked_spelled, List.length_cons, List.length_cons, ← hused, Nat.add_sub_add_right]
    exact ⟨hnext, Nat.succ_lt_succ hlt, rfl⟩

theorem Traversing.walkAsks_append_of_ranOut (h : Traversing n (bits ++ post) s) (hend : (s.walk n bits).outcome = .ranOut)
    (q : List Bool) :
    s.walkAsks n (bits ++ q) =
      s.walkAsks n bits ++ (s.walked (s.walk n bits)).walkAsks (n - (s.walk n bits).syms.length) q := by
  refine Traversing.induction (P := fun n bits s => (s.walk n bits).outcome = .ranOut →
    s.walkAsks n (bits ++ q) =
      s.walkAsks n bits ++ (s.walked (s.walk n bits)).walkAsks (n - (s.walk n bits).syms.length) q)
    (fun bits s h hend => ?_) (fun n s h _ => ?_) (fun n b bits s h hk ih hend => ?_) (fun n b bits s h hk hf hend => ?_)
    (fun n b bits s h hk hf ih hend => ?_) h hend
  · rw [walk_zero] at hend
    cases hend
  · rw [walk_nil, State.walked_zero, List.nil_append, walkAsks_nil]
    rfl
  · rw [h.walk_internal n bits hk] at hend ⊢
    rw [List.cons_append, h.walkAsks_internal n (bits ++ q) hk, h.walkAsks_internal n bits hk, ih hend, ← h.walked_moved,
      List.append_assoc]
  · rw [h.walk_filler n bits hk hf] at hend
    cases hend
  · rw [h.walk_leaf n bits hk hf] at hend ⊢
    rw [List.cons_append, h.walkAsks_leaf n (bits ++ q) h.room.atEnd hk hf, h.walkAsks_leaf n bits h.room.atEnd hk hf,
      ih hend, ← h.walked_spelled, List.append_assoc, List.length_cons, Nat.add_sub_add_right]
    rfl

/-- How many of the accesses of a walk are reads. -/
theorem Traversing.readCount_walkAsks (h : Traversing n (bits ++ post) s) :
    readCount (s.walkAsks n bits) = s.br.fetched (s.walk n bits).used := by
  refine Traversing.induction (P := fun n bits s => readCount (s.walkAsks n bits) = s.br.fetched (s.walk n bits).used)
    (fun bits s _ => ?_) (fun n s _ => ?_) (fun n b bits s h hk ih => ?_) (fun n b bits s h hk hf => ?_)
    (fun n b bits s h hk hf ih => ?_) h
  · rw [walk_zero, State.walkAsks, decodeAsks_zero, BitReader.fetched_of_le (Nat.zero_le _)]
    rfl
  · rw [walk_nil, walkAsks_nil, BitReader.fetched_of_le (Nat.zero_le _)]
    rfl
  · rw [h.walk_internal n bits hk, h.walkAsks_internal n bits hk, readCount_append, ih, s.readCount_fetchAsks]
    exact (s.fetched_succ _).symm
  · rw [h.walk_filler n bits hk hf, h.walkAsks_filler n bits hk hf, s.readCount_fetchAsks]
  · rw [h.walk_leaf n bits hk hf, h.walkAsks_leaf n bits h.room.atEnd hk hf, readCount_append, readCount_cons_out, ih,
      s.readCount_fetchAsks]
    exact (s.fetched_succ _).symm

end

end Sys2Proof.Machine
end

section
/-! DEC_STREAM (48_decode_traversal.md R159): what the decode loop leaves when no access fails and at the first access that
fails, and the count with which it completes. -/
namespace Sys2Proof.Machine

/-! ### The reader after several bits -/

theorem State.readBits_readBits {s : State} {pre post : List Bool} (h : availableBits s = pre ++ post)
    (h8 : s.br.left ≤ 8#4) (k : Nat) : (s.readBits pre.length).readBits k = s.readBits (pre.length + k) := by
  induction pre generalizing s with
  | nil => rw [List.length_nil, State.readBits_zero, Nat.zero_add]
  | cons b pre ih =>
    have hnext := ih (availableBits_readBits_one h) (left_readBits_one h8)
    rw [State.readBits_one_readBits h h8, State.readBits_one_readBits h h8] at hnext
    rw [List.length_cons, Nat.add_right_comm, hnext]

theorem BitReader.left_after (r : BitReader) (bs : List Byte) (k : Nat) :
    (r.after bs k).left.toNat = r.left.toNat + 8 * r.fetched k - k := by
  have hr := r.left.isLt
  rw [BitReader.after]
  split
  · rename_i hk
    show (BitVec.ofNat 4 (r.left.toNat - k)).toNat = _
    rw [BitReader.fetched_of_le hk, BitVec.toNat_ofNat]
    omega
  · show (BitVec.ofNat 4 (r.left.toNat + 8 * r.fetched k - k)).toNat = _
    rw [BitVec.toNat_ofNat, BitReader.fetched]
    omega

theorem BitReader.fetched_add (r : BitReader) (bs : List Byte) (m k : Nat) :
    r.fetched (m + k) = r.fetched m + (r.after bs m).fetched k := by
  rw [BitReader.fetched, BitReader.fetched, BitReader.fetched, BitReader.left_after, BitReader.fetched]
  omega

/-- A reader with no bit in hand has given every bit of the bytes it has fetched. -/
theorem BitReader.eq_of_left_after_zero {r : BitReader} {bs : List Byte} {k : Nat} (h : (r.after bs k).left = 0#4) :
    k = r.left.toNat + 8 * r.fetched k := by
  have hleft := congrArg BitVec.toNat h
  rw [BitReader.left_after, BitVec.toNat_ofNat, BitReader.fetched] at hleft
  rw [BitReader.fetched]
  omega

/-! ### No access fails -/

/-- How the decode of a walk ends, from the state after it. -/
def walkStop (o : WalkEnd) (t : State) : EStateM.Result Stop State Unit :=
  match o with
  | .reached => .ok () t
  | .ranOut => .error (.raised .truncatedStream) t.setFinished
  | .deadEnd => .error (.raised .corruptStream) t

section
variable {post bits : List Bool} {n : Nat} {s : State}

theorem Traversing.decStepBody_of_no_bits (h : Traversing n [] s) :
    decStepBody s = .error (.raised .truncatedStream) s.setFinished :=
  Cmd.run_bind_error (decReadBit_of_end (readBit_of_no_bits h.bits))

theorem decodeLoop_zero {s : State} (h : moreToDecode s = true) :
    decodeLoop 0 s = (decStepBody >>= fun _ => pure ()) s := by
  rw [decodeLoop, Cmd.run_bind_ok (Cmd.run_getState s), if_pos h]

/-- With a symbol to spell and no bit left the loop finds the end of the stream. -/
theorem Traversing.decodeLoop_of_no_bits (h : Traversing (n + 1) [] s) (k : Nat) :
    decodeLoop k s = .error (.raised .truncatedStream) s.setFinished := by
  cases k with
  | zero => rw [decodeLoop_zero h.more, Cmd.run_bind_error h.decStepBody_of_no_bits]
  | succ k => rw [decodeLoop_succ h.more, Cmd.run_bind_error h.decStepBody_of_no_bits]

theorem Traversing.decodeLoop_of_noneFails (h : Traversing n bits s) (k : Nat) (hio : NoneFails s (s.walkAsks n bits)) :
    decodeLoop (bits.length + k) s = walkStop (s.walk n bits).outcome (s.walked (s.walk n bits)) := by
  have h : Traversing n (bits ++ []) s := by rwa [List.append_nil]
  rw [h.decodeLoop_eq k hio]
  cases hend : (s.walk n bits).outcome with
  | reached => rfl
  | deadEnd => rfl
  | ranOut =>
    obtain ⟨hnext, hlt, -⟩ := h.of_ranOut hend
    obtain ⟨m, hm⟩ := Nat.exists_eq_add_one_of_ne_zero (Nat.sub_ne_zero_of_lt hlt)
    rw [hm] at hnext
    exact hnext.decodeLoop_of_no_bits k

/-! ### The first access that fails -/

/-- Access number i of those of the next bit is the first that fails: the read of its byte, or the write of its symbol. -/
inductive FailsHere (s : State) (b : Bool) (i : Nat) : Prop
  | read (hi : i = 0) (left : s.br.left = 0#4) (fails : ioFails s.env .inp s.src.pos = true)
  | write (hi : i = s.fetchAsks.length) (reads : NoneFails s s.fetchAsks) (leaf : (s.childNode b).kind = .leaf)
      (real : (s.childNode b).filler = false) (fails : ioFails (s.readBits 1).env .out s.sink.pos = true)

/-- The first access that fails is one of those of a bit, and the walk over the bits before it has run out. -/
structure FailsAtBit (n : Nat) (bits pre : List Bool) (b : Bool) (post : List Bool) (s : State) (j i : Nat) : Prop where
  split : bits = pre ++ b :: post
  ranOut : (s.walk n pre).outcome = .ranOut
  index : j = (s.walkAsks n pre).length + i
  here : FailsHere (s.walked (s.walk n pre)) b i

theorem FailsAtBit.first {b : Bool} {i : Nat} (h : FailsHere s b i) (n : Nat) (bits : List Bool) :
    FailsAtBit (n + 1) (b :: bits) [] b bits s i i where
  split := rfl
  ranOut := rfl
  index := by rw [walkAsks_nil, List.length_nil, Nat.zero_add]
  here := by rwa [walk_nil, State.walked_zero]

theorem FailsHere.of_fetchAsks {i : Nat} (h : FirstFails s s.fetchAsks i) (b : Bool) : FailsHere s b i := by
  obtain ⟨hi, hleft, hfails⟩ := firstFails_fetchAsks h
  exact .read hi hleft hfails

theorem Traversing.exists_failsAtBit (h : Traversing n bits s) {j : Nat} (hio : FirstFails s (s.walkAsks n bits) j) :
    ∃ pre b post i, FailsAtBit n bits pre b post s j i := by
  have h : Traversing n (bits ++ []) s := by rwa [List.append_nil]
  refine Traversing.induction (P := fun n bits s => ∀ j, FirstFails s (s.walkAsks n bits) j →
    ∃ pre b post i, FailsAtBit n bits pre b post s j i)
    (fun bits s _ j hio => ?_) (fun n s _ j hio => ?_) (fun n b bits s h hk ih k hio => ?_)
    (fun n b bits s h hk hf j hio => ?_) (fun n b bits s h hk hf ih k hio => ?_) h j hio
  · rw [State.walkAsks, decodeAsks_zero] at hio
    exact absurd hio.lt (Nat.not_lt_zero j)
  · rw [walkAsks_nil] at hio
    exact absurd hio.lt (Nat.not_lt_zero j)
  · rw [h.walkAsks_internal n bits hk] at hio
    obtain hfirst | ⟨-, j, rfl, hlast⟩ := hio.append_cases (t := s.moved b) s.env_readBits_one
    · exact ⟨[], b, bits, k, .first (.of_fetchAsks hfirst b) n bits⟩
    · obtain ⟨pre, c, post, i, hpre⟩ := ih j hlast
      refine ⟨b :: pre, c, post, i, congrArg (b :: ·) hpre.split, ?_, ?_, ?_⟩
      · rw [h.walk_internal n pre hk]
        exact hpre.ranOut
      · rw [h.walkAsks_internal n pre hk, List.length_append, hpre.index, Nat.add_assoc]
      · rw [h.walk_internal n pre hk, ← h.walked_moved]
        exact hpre.here
  · rw [h.walkAsks_filler n bits hk hf] at hio
    exact ⟨[], b, bits, j, .first (.of_fetchAsks hio b) n bits⟩
  · rw [h.walkAsks_leaf n bits h.room.atEnd hk hf] at hio
    obtain hfirst | ⟨hreads, j, rfl, hlast⟩ := hio.append_cases (t := s.readBits 1) s.env_readBits_one
    · exact ⟨[], b, bits, k, .first (.of_fetchAsks hfirst b) n bits⟩
    · cases j with
      | zero =>
        exact ⟨[], b, bits, _, .first (.write rfl hreads hk hf ((firstFails_zero _ _ _).1 hlast)) n bits⟩
      | succ j =>
        obtain ⟨-, hlast⟩ := (firstFails_succ (t := s.spelled b) rfl _ _ _).1 hlast
        obtain ⟨pre, c, post, i, hpre⟩ := ih j hlast
        refine ⟨b :: pre, c, post, i, congrArg (b :: ·) hpre.split, ?_, ?_, ?_⟩
        · rw [h.walk_leaf n pre hk hf]
          exact hpre.ranOut
        · rw [h.walkAsks_leaf n pre h.room.atEnd hk hf, List.length_append, List.length_cons, hpre.index]
          omega
        · rw [h.walk_leaf n pre hk hf, ← h.walked_spelled]
          exact hpre.here

/-! ### One bit of which an access fails -/

theorem Traversing.exists_walkAsks_cons {b : Bool} (h : Traversing n (b :: bits) s) (m : Nat) (hend : s.sink.pos = s.sink.len) :
    ∃ rest, s.walkAsks (m + 1) (b :: bits) = s.fetchAsks ++ rest := by
  cases hk : (s.childNode b).kind with
  | internal => exact ⟨_, h.walkAsks_internal m bits hk⟩
  | leaf =>
    cases hf : (s.childNode b).filler with
    | true => exact ⟨[], by rw [h.walkAsks_filler m bits hk hf, List.append_nil]⟩
    | false => exact ⟨_, h.walkAsks_leaf m bits hend hk hf⟩

/-- The bit whose byte cannot be read. -/
theorem Traversing.decodeLoop_of_read_ioFails {b : Bool} (h : Traversing (n + 1) (b :: bits) s) (h0 : s.br.left = 0#4)
    (hio : ioFails s.env .inp s.src.pos = true) (k : Nat) :
    decodeLoop (k + 1) s = .error (.ioFailed .inp) s.failedAsk := by
  rw [decodeLoop_succ h.more, Cmd.run_bind_error (e := .ioFailed .inp) (t := s.failedAsk)]
  exact Cmd.run_bind_error (decReadBit_of_ioFailed (readBit_of_bit_ioFails h.bits h0 hio))

/-- The bit whose symbol cannot be written. -/
theorem Traversing.decodeLoop_of_write_ioFails {b : Bool} (h : Traversing (n + 1) (b :: bits) s)
    (hreads : NoneFails s s.fetchAsks) (hk : (s.childNode b).kind = .leaf) (hf : (s.childNode b).filler = false)
    (hio : ioFails (s.readBits 1).env .out s.sink.pos = true) (k : Nat) :
    decodeLoop (k + 1) s = .error (.ioFailed .out) (s.readBits 1).failedAsk := by
  rw [decodeLoop_succ h.more,
    Cmd.run_bind_error (h.decStepBody_leaf_ioFails (noneFails_fetchAsks hreads) hk hf hio)]

theorem Traversing.length_walkAsks (h : Traversing n (bits ++ post) s) :
    (s.walkAsks n bits).length = s.br.fetched (s.walk n bits).used + (s.walk n bits).syms.length := by
  have henv := congrArg Env.ioAsked h.env_walked
  have hleft : (s.walked (s.walk n bits)).env.ioAsked =
      s.env.ioAsked + s.br.fetched (s.walk n bits).used + (s.walk n bits).syms.length := rfl
  have hright : (askedMore s (s.walkAsks n bits).length).ioAsked = s.env.ioAsked + (s.walkAsks n bits).length := rfl
  omega

section
variable {pre : List Bool} {b : Bool} {j i : Nat} (hf : FailsAtBit n bits pre b post s j i) (h : Traversing n bits s)
include hf h

theorem FailsAtBit.before : Traversing n (pre ++ b :: post) s := hf.split ▸ h

/-- The traversal at the bit, with the symbol that is then asked for. -/
theorem FailsAtBit.exists_next : ∃ m, n = (s.walk n pre).syms.length + (m + 1) ∧
    Traversing (m + 1) (b :: post) (s.walked (s.walk n pre)) := by
  obtain ⟨hnext, hlt, -⟩ := (hf.before h).of_ranOut hf.ranOut
  obtain ⟨m, hm⟩ := Nat.exists_eq_add_one_of_ne_zero (Nat.sub_ne_zero_of_lt hlt)
  rw [hm] at hnext
  exact ⟨m, by omega, hnext⟩

theorem FailsAtBit.used : (s.walk n pre).used = pre.length := ((hf.before h).of_ranOut hf.ranOut).2.2

theorem FailsAtBit.length_asks :
    (s.walkAsks n pre).length = s.br.fetched pre.length + (s.walk n pre).syms.length := by
  rw [(hf.before h).length_walkAsks, hf.used h]

theorem FailsAtBit.readCount_asks : readCount (s.walkAsks n pre) = s.br.fetched pre.length := by
  rw [(hf.before h).readCount_walkAsks, hf.used h]

theorem FailsAtBit.asks_eq : s.walkAsks n bits = s.walkAsks n pre ++
    (s.walked (s.walk n pre)).walkAsks (n - (s.walk n pre).syms.length) (b :: post) := by
  rw [← (hf.before h).walkAsks_append_of_ranOut hf.ranOut, ← hf.split]

theorem FailsAtBit.noneFails (hio : FirstFails s (s.walkAsks n bits) j) : NoneFails s (s.walkAsks n pre) := by
  rw [hf.asks_eq h] at hio
  obtain hfirst | ⟨hnone, -⟩ := hio.append_cases (t := s.walked (s.walk n pre)) (hf.before h).env_walked
  · exact absurd hfirst.lt (by rw [hf.index]; omega)
  · exact hnone

/-- The loop comes to the bit. -/
theorem FailsAtBit.decodeLoop_eq (hio : FirstFails s (s.walkAsks n bits) j) (k : Nat) :
    decodeLoop (bits.length + k) s = decodeLoop (post.length + k + 1) (s.walked (s.walk n pre)) := by
  have hrun := (hf.before h).decodeLoop_eq (post.length + k + 1) (hf.noneFails h hio)
  rw [hf.ranOut] at hrun
  rw [hf.split, List.length_append, List.length_cons, Nat.add_assoc, Nat.add_right_comm]
  exact hrun

omit h in
/-- The symbols before the bit are the first of the walk. -/
theorem FailsAtBit.syms_eq : (s.walk n pre).syms = (s.walk n bits).syms.take (s.walk n pre).syms.length := by
  have hwalk : s.walk n (pre ++ b :: post) = _ := decodeWalk_append_of_ranOut s.tree hf.ranOut (b :: post)
  rw [hf.split, hwalk]
  exact List.take_left.symm

end

/-- What a failed access leaves of a decode: the walk before it and the kind of the access. -/
structure ReadFails (n : Nat) (bits pre : List Bool) (s : State) (j k : Nat) : Prop where
  kind : ((s.walkAsks n bits)[j]?).map Prod.fst = some .inp
  reads : readCount ((s.walkAsks n bits).take j) = s.br.fetched pre.length
  index : j = s.br.fetched pre.length + (s.walk n pre).syms.length
  used : pre.length = s.br.left.toNat + 8 * s.br.fetched pre.length
  run : decodeLoop (bits.length + k) s = .error (.ioFailed .inp) (s.walked (s.walk n pre)).failedAsk

structure WriteFails (n : Nat) (bits pre : List Bool) (s : State) (j k : Nat) : Prop where
  kind : ((s.walkAsks n bits)[j]?).map Prod.fst = some .out
  reads : readCount ((s.walkAsks n bits).take j) = s.br.fetched (pre.length + 1)
  index : j = s.br.fetched (pre.length + 1) + (s.walk n pre).syms.length
  used : (s.walk ((s.walk n pre).syms.length + 1) bits).used = pre.length + 1
  run : decodeLoop (bits.length + k) s = .error (.ioFailed .out) ((s.walked (s.walk n pre)).readBits 1).failedAsk

section
variable {pre : List Bool} {b : Bool} {j i : Nat} (hf : FailsAtBit n bits pre b post s j i) (h : Traversing n bits s)
  (hio : FirstFails s (s.walkAsks n bits) j) (k : Nat)
include hf h hio

theorem FailsAtBit.readFails (hi : i = 0) (left : (s.walked (s.walk n pre)).br.left = 0#4)
    (fails : ioFails (s.walked (s.walk n pre)).env .inp (s.walked (s.walk n pre)).src.pos = true) :
    ReadFails n bits pre s j k := by
  obtain ⟨m, hm, hnext⟩ := hf.exists_next h
  obtain ⟨rest, hrest⟩ := hnext.exists_walkAsks_cons m hnext.room.atEnd
  have hlen := hf.length_asks h
  have hj : j = (s.walkAsks n pre).length := hf.index.trans (by rw [hi, Nat.add_zero])
  have hasks := hf.asks_eq h
  rw [show n - (s.walk n pre).syms.length = m + 1 by omega, hrest, State.fetchAsks, if_pos left] at hasks
  refine ⟨?_, ?_, hj.trans hlen, ?_, ?_⟩
  · rw [hasks, hj, List.getElem?_append_right (Nat.le_refl _), Nat.sub_self]
    rfl
  · rw [hasks, hj, List.take_left, hf.readCount_asks h]
  · have hafter : (s.br.after (unread s) (s.walk n pre).used).left = 0#4 := left
    rw [hf.used h] at hafter
    exact BitReader.eq_of_left_after_zero hafter
  · rw [hf.decodeLoop_eq h hio, hnext.decodeLoop_of_read_ioFails left fails]

theorem FailsAtBit.writeFails (hi : i = (s.walked (s.walk n pre)).fetchAsks.length)
    (reads : NoneFails (s.walked (s.walk n pre)) (s.walked (s.walk n pre)).fetchAsks)
    (leaf : ((s.walked (s.walk n pre)).childNode b).kind = .leaf)
    (real : ((s.walked (s.walk n pre)).childNode b).filler = false)
    (fails : ioFails ((s.walked (s.walk n pre)).readBits 1).env .out (s.walked (s.walk n pre)).sink.pos = true) :
    WriteFails n bits pre s j k := by
  obtain ⟨m, hm, hnext⟩ := hf.exists_next h
  have hlen := hf.length_asks h
  have hasks := hf.asks_eq h
  have hfetched : s.br.fetched (pre.length + 1) = s.br.fetched pre.length + (s.walked (s.walk n pre)).br.fetched 1 := by
    have hadd : _ = _ + (s.walked (s.walk n pre)).br.fetched 1 :=
      s.br.fetched_add (unread s) (s.walk n pre).used 1
    rwa [hf.used h] at hadd
  have hfetch := (s.walked (s.walk n pre)).length_fetchAsks
  have hj := hf.index
  rw [show n - (s.walk n pre).syms.length = m + 1 by omega, hnext.walkAsks_leaf m post hnext.room.atEnd leaf real] at hasks
  refine ⟨?_, ?_, by omega, ?_, ?_⟩
  · rw [hasks, hj, hi, List.getElem?_append_right (Nat.le_add_right _ _), Nat.add_sub_cancel_left,
      List.getElem?_append_right (Nat.le_refl _), Nat.sub_self]
    rfl
  · rw [hasks, hj, hi, List.take_length_add_append, List.take_left, readCount_append, hf.readCount_asks h,
      State.readCount_fetchAsks, hfetched]
  · have hone : s.walk ((s.walk n pre).syms.length + 1) pre = s.walk n pre :=
      decodeWalk_congr_of_ranOut s.tree hf.ranOut (Nat.lt_succ_self _)
    have hran : (decodeWalk s.tree s.dec.cur ((s.walk n pre).syms.length + 1) pre).outcome = .ranOut :=
      (congrArg Walk.outcome hone).trans hf.ranOut
    have hwalk : s.walk ((s.walk n pre).syms.length + 1) (pre ++ b :: post) = _ :=
      decodeWalk_append_of_ranOut s.tree hran (b :: post)
    have hlast : ((s.walked (s.walk n pre)).walk 1 (b :: post)).used = 1 := by
      rw [hnext.walk_leaf 0 post leaf real, walk_zero]
    have hone : decodeWalk s.tree s.dec.cur ((s.walk n pre).syms.length + 1) pre = s.walk n pre := hone
    rw [hone, Nat.add_sub_cancel_left] at hwalk
    rw [hf.split, hwalk]
    show (s.walk n pre).used + ((s.walked (s.walk n pre)).walk 1 (b :: post)).used = _
    rw [hlast, hf.used h]
  · rw [hf.decodeLoop_eq h hio, hnext.decodeLoop_of_write_ioFails reads leaf real fails]

end

/-- The decode at the first access that fails. -/
theorem Traversing.decodeLoop_of_firstFails (h : Traversing n bits s) {j : Nat} (hio : FirstFails s (s.walkAsks n bits) j)
    (k : Nat) : ∃ pre b post, bits = pre ++ b :: post ∧ (s.walk n pre).used = pre.length ∧
      (s.walk n pre).syms = (s.walk n bits).syms.take (s.walk n pre).syms.length ∧
      (ReadFails n bits pre s j k ∨ WriteFails n bits pre s j k) := by
  obtain ⟨pre, b, post, i, hf⟩ := h.exists_failsAtBit hio
  refine ⟨pre, b, post, hf.split, hf.used h, hf.syms_eq, ?_⟩
  cases hf.here with
  | read hi left fails => exact .inl (hf.readFails h hio k hi left fails)
  | write hi reads leaf real fails => exact .inr (hf.writeFails h hio k hi reads leaf real fails)

end

end Sys2Proof.Machine
end

section
/-! DEC_STREAM issued by the host (48_decode_traversal.md R159): its outcomes by the walk, and the count it ends with. -/
namespace Sys2Proof.Machine

section
variable {s : State} {n : Nat}

theorem decStream_eq (hd : s.dec.valid = true) (hh : s.hdr.valid = true) : decStream s = decodeLoop (bitsLeft s) s := by
  have hneed : hasDecoderAndHeader s = true := by
    rw [hasDecoderAndHeader, hd, hh]
    rfl
  exact (Cmd.run_bind_ok (need_of_set hneed)).trans (Cmd.run_bind_ok (Cmd.run_getState s))

/-- The bound of the loop is at least the number of bits the reader can give. -/
theorem exists_bitsLeft (s : State) : ∃ k, bitsLeft s = (availableBits s).length + k := by
  rw [availableBits, List.length_append, length_readerBits, bitsLeft]
  cases s.br.finished with
  | true => exact ⟨8 * bytesLeft s, rfl⟩
  | false =>
    refine ⟨0, ?_⟩
    rw [if_neg Bool.false_ne_true, length_bytesBits, length_unread]
    rfl

theorem decStream_of_noneFails (hd : s.dec.valid = true) (hh : s.hdr.valid = true) (h : Traversing n (availableBits s) s)
    (hio : NoneFails s (s.walkAsks n (availableBits s))) :
    decStream s = walkStop (s.walk n (availableBits s)).outcome (s.walked (s.walk n (availableBits s))) := by
  obtain ⟨k, hk⟩ := exists_bitsLeft s
  rw [decStream_eq hd hh, hk, h.decodeLoop_of_noneFails k hio]

/-! ### The states after a walk -/

/-- What stands in the state after a walk, register by register. -/
theorem Stream.Room.putAll_eq {x : Stream} {bs : List Byte} (h : x.Room bs.length) :
    x.putAll bs = { mem := (x.putAll bs).mem, len := x.len + BitVec.ofNat 64 bs.length,
                    pos := x.len + BitVec.ofNat 64 bs.length } := by
  have hlen := x.len_putAll bs
  have hpos := (Stream.Room.putAll (n := 0) h).atEnd
  rw [← hlen]
  conv_rhs => arg 3; rw [← hpos]

theorem State.walked_eq {w : Walk} (hd : s.dec.valid = true) (h : s.sink.Room w.syms.length) :
    s.walked w =
      { s with
        br := s.br.after (unread s) w.used
        src := { s.src with pos := s.src.pos + BitVec.ofNat 64 (s.br.fetched w.used) }
        dec := { cur := w.node, count := s.dec.count + BitVec.ofNat 64 w.syms.length, valid := true }
        sink := { mem := (s.sink.putAll w.syms).mem, len := s.sink.len + BitVec.ofNat 64 w.syms.length
                  pos := s.sink.len + BitVec.ofNat 64 w.syms.length }
        env := askedMore s (s.br.fetched w.used + w.syms.length) } := by
  have henv : askedMore (s.readBits w.used) w.syms.length = askedMore s (s.br.fetched w.used + w.syms.length) :=
    askedMore_askedMore (s.readBits_env _) _
  rw [State.walked, henv, ← h.putAll_eq, ← hd]
  rfl

end

/-- The state after a walk and one bit more. -/
theorem State.readBits_one_walked {s : State} {w : Walk} {pre post : List Bool} (hbits : availableBits s = pre ++ post)
    (h8 : s.br.left ≤ 8#4) (hw : w.used = pre.length) (hd : s.dec.valid = true) (h : s.sink.Room w.syms.length) :
    (s.walked w).readBits 1 =
      { s with
        br := s.br.after (unread s) (w.used + 1)
        src := { s.src with pos := s.src.pos + BitVec.ofNat 64 (s.br.fetched (w.used + 1)) }
        dec := { cur := w.node, count := s.dec.count + BitVec.ofNat 64 w.syms.length, valid := true }
        sink := { mem := (s.sink.putAll w.syms).mem, len := s.sink.len + BitVec.ofNat 64 w.syms.length
                  pos := s.sink.len + BitVec.ofNat 64 w.syms.length }
        env := askedMore s (s.br.fetched (w.used + 1) + w.syms.length) } := by
  obtain ⟨hbr, hsrc⟩ := State.readBits_congr (s := s.walked w) (t := s.readBits w.used) rfl rfl 1
  have hmore := State.readBits_readBits hbits h8 1
  rw [← hw] at hmore
  rw [hmore] at hbr hsrc
  have hfetched : s.br.fetched (w.used + 1) = s.br.fetched w.used + (s.walked w).br.fetched 1 :=
    s.br.fetched_add (unread s) w.used 1
  have henv : ((s.walked w).readBits 1).env = askedMore s (s.br.fetched (w.used + 1) + w.syms.length) := by
    have hbefore : (s.walked w).env = askedMore s (s.br.fetched w.used + w.syms.length) :=
      askedMore_askedMore (s.readBits_env _) _
    rw [State.readBits_env, askedMore_askedMore hbefore, hfetched, Nat.add_right_comm]
  rw [State.readBits_frame, hbr, hsrc, henv, State.walked_eq hd h]
  rfl

/-! ### Outcomes by the walk -/

section
variable {s : State} {n : Nat}

theorem Traversing.setSeqStep {bits : List Bool} (h : Traversing n bits s) (v : BitVec 4) :
    Traversing n bits (s.setSeqStep v) :=
  ⟨h.bits, h.left, h.tree, h.cur_lt, h.cur_internal, h.room, h.count⟩

/-- DEC_STREAM where no access fails. -/
theorem exec_decStream_of_noneFails (hd : s.dec.valid = true) (hh : s.hdr.valid = true)
    (h : Traversing n (availableBits s) s) (hio : NoneFails s (s.walkAsks n (availableBits s))) {w : Walk}
    (hw : w = s.walk n (availableBits s)) :
    exec .decStream s = .next (ended
      { s with
        br := { s.br.after (unread s) w.used with finished := s.br.finished || decide (w.outcome = .ranOut) }
        src := { s.src with pos := s.src.pos + BitVec.ofNat 64 (s.br.fetched w.used) }
        dec := { cur := w.node, count := s.dec.count + BitVec.ofNat 64 w.syms.length, valid := true }
        sink := { mem := (s.sink.putAll w.syms).mem, len := s.sink.len + BitVec.ofNat 64 w.syms.length
                  pos := s.sink.len + BitVec.ofNat 64 w.syms.length }
        env := askedMore s (s.br.fetched w.used + w.syms.length) } w.outcome.status) := by
  have hrun := decStream_of_noneFails (s := s.setSeqStep 0#4) hd hh (h.setSeqStep 0#4) hio
  have hroom : s.sink.Room w.syms.length := h.room.le (hw ▸ (decodeWalk_bounds _ _ _ _).2)
  have hwalk : (s.setSeqStep 0#4).walk n (availableBits (s.setSeqStep 0#4)) = w := hw.symm
  rw [hwalk, State.walked_eq (s := s.setSeqStep 0#4) hd hroom] at hrun
  have hfin : (s.br.after (unread s) w.used).finished = s.br.finished := by
    rw [BitReader.after]
    split <;> rfl
  cases hend : w.outcome with
  | reached =>
    rw [hend] at hrun
    have hfinished : (s.br.finished || decide (WalkEnd.reached = .ranOut)) = (s.br.after (unread s) w.used).finished := by
      rw [hfin]
      exact Bool.or_false _
    rw [hfinished]
    exact issue_of_ok hrun
  | deadEnd =>
    rw [hend] at hrun
    have hfinished : (s.br.finished || decide (WalkEnd.deadEnd = .ranOut)) = (s.br.after (unread s) w.used).finished := by
      rw [hfin]
      exact Bool.or_false _
    rw [hfinished]
    exact issue_of_raised hrun
  | ranOut =>
    rw [hend] at hrun
    have hfinished : (s.br.finished || decide (WalkEnd.ranOut = .ranOut)) = true := Bool.or_true _
    rw [hfinished]
    exact issue_of_raised hrun

theorem decStream_of_firstFails (hd : s.dec.valid = true) (hh : s.hdr.valid = true) (h : Traversing n (availableBits s) s)
    {j : Nat} (hio : FirstFails s (s.walkAsks n (availableBits s)) j) :
    ∃ pre b post k, availableBits s = pre ++ b :: post ∧ (s.walk n pre).used = pre.length ∧
      (s.walk n pre).syms = (s.walk n (availableBits s)).syms.take (s.walk n pre).syms.length ∧
      decStream s = decodeLoop ((availableBits s).length + k) s ∧
      (ReadFails n (availableBits s) pre s j k ∨ WriteFails n (availableBits s) pre s j k) := by
  obtain ⟨k, hk⟩ := exists_bitsLeft s
  obtain ⟨pre, b, post, hsplit, hused, hsyms, hfails⟩ := h.decodeLoop_of_firstFails hio k
  exact ⟨pre, b, post, k, hsplit, hused, hsyms, by rw [decStream_eq hd hh, hk], hfails⟩

/-- DEC_STREAM where the read of the next byte fails after a walk. -/
theorem exec_decStream_of_read_ioFailed (hd : s.dec.valid = true) {w : Walk} (hroom : s.sink.Room w.syms.length)
    (hrun : decStream (s.setSeqStep 0#4) = .error (.ioFailed .inp) ((s.setSeqStep 0#4).walked w).failedAsk) :
    exec .decStream s = .next (ended
      { s with
        br := s.br.after (unread s) w.used
        src := { s.src with pos := s.src.pos + BitVec.ofNat 64 (s.br.fetched w.used) }
        dec := { cur := w.node, count := s.dec.count + BitVec.ofNat 64 w.syms.length, valid := true }
        sink := { mem := (s.sink.putAll w.syms).mem, len := s.sink.len + BitVec.ofNat 64 w.syms.length
                  pos := s.sink.len + BitVec.ofNat 64 w.syms.length }
        env := askedMore s (s.br.fetched w.used + w.syms.length + 1) } 0x01#8) := by
  rw [State.walked_eq (s := s.setSeqStep 0#4) hd hroom] at hrun
  exact issue_of_error_io hrun

/-- DEC_STREAM where the write of the symbol that one bit more spells fails after a walk. -/
theorem exec_decStream_of_write_ioFailed (hd : s.dec.valid = true) (h8 : s.br.left ≤ 8#4) {w : Walk} {pre post : List Bool}
    (hbits : availableBits s = pre ++ post) (hused : w.used = pre.length) (hroom : s.sink.Room w.syms.length)
    (hrun : decStream (s.setSeqStep 0#4) =
      .error (.ioFailed .out) (((s.setSeqStep 0#4).walked w).readBits 1).failedAsk) :
    exec .decStream s = .next (ended
      { s with
        br := s.br.after (unread s) (w.used + 1)
        src := { s.src with pos := s.src.pos + BitVec.ofNat 64 (s.br.fetched (w.used + 1)) }
        dec := { cur := w.node, count := s.dec.count + BitVec.ofNat 64 w.syms.length, valid := true }
        sink := { mem := (s.sink.putAll w.syms).mem, len := s.sink.len + BitVec.ofNat 64 w.syms.length
                  pos := s.sink.len + BitVec.ofNat 64 w.syms.length }
        env := askedMore s (s.br.fetched (w.used + 1) + w.syms.length + 1) } 0x01#8) := by
  rw [State.readBits_one_walked (s := s.setSeqStep 0#4) hbits h8 hused hd hroom] at hrun
  exact issue_of_error_io hrun

/-- A walk that has spelled symbols and reached the last stands at the root. -/
theorem decodeWalk_reached_node (t : Tree) {bs : List Bool} {i : NodeIx} {m : Nat}
    (h : (decodeWalk t i (m + 1) bs).outcome = .reached) : (decodeWalk t i (m + 1) bs).node = t.root := by
  induction bs generalizing i m with
  | nil => cases h
  | cons b bs ih =>
    rw [decodeWalk_cons] at h ⊢
    split at h
    · cases h
    · rename_i hc
      rw [if_neg hc]
      cases hk : (recordAt t (t.childAt i b).toNat).kind with
      | internal =>
        rw [hk] at h
        exact ih h
      | leaf =>
        cases hf : (recordAt t (t.childAt i b).toNat).filler with
        | true =>
          rw [hk, hf] at h
          cases h
        | false =>
          rw [hk, hf] at h
          cases m with
          | zero => exact congrArg Walk.node (decodeWalk_zero t t.root bs)
          | succ m => exact ih h

/-! ### The count it ends with -/

/-- A read leaves the header and the traversal, and one bit less. -/
theorem ends_readBit (s : State) :
    Ends readBit s (fun _ t => t.hdr = s.hdr ∧ t.dec = s.dec ∧ bitsLeft t < bitsLeft s) fun _ _ => True := by
  by_cases h0 : s.br.left = 0#4
  · cases hf : s.br.finished with
    | true => exact ends_of_error (readBit_of_refill_error h0 (refill_of_finished hf)) trivial
    | false =>
      by_cases hend : s.src.len ≤ s.src.pos
      · exact ends_of_error (readBit_of_refill_error h0 (refill_at_end hf hend)) trivial
      · have hlt := BitVec.not_le.1 hend
        cases hio : ioFails s.env .inp s.src.pos with
        | true => exact ends_of_error (readBit_of_refill_error h0 (refill_of_ioFails hf hlt hio)) trivial
        | false =>
          refine ends_of_ok (readBit_of_pos_lt_len h0 hf hlt hio) ⟨rfl, rfl, ?_⟩
          have hbytes := bytesLeft_advance hend (s.fetched 7#4) rfl
          rw [bitsLeft, bitsLeft, State.fetched_br_left, h0, BitVec.toNat_ofNat, BitVec.toNat_ofNat]
          omega
  · by_cases h8 : s.br.left ≤ 8#4
    · refine ends_of_ok (readBit_of_left h0 h8) ⟨rfl, rfl, ?_⟩
      show (s.br.left - 1#4).toNat + 8 * bytesLeft s < s.br.left.toNat + 8 * bytesLeft s
      bv_omega
    · refine ends_of_error (e := .stuck .bitOutOfByte) (t := s) ?_ trivial
      rw [readBit_eq, if_neg h0, takeBit_eq, if_pos (BitVec.not_le.1 h8)]

theorem ends_decReadBit (s : State) :
    Ends decReadBit s (fun _ t => t.hdr = s.hdr ∧ t.dec = s.dec ∧ bitsLeft t < bitsLeft s) fun _ _ => True := by
  have hread := ends_readBit s
  rw [Ends] at hread
  rw [Ends, decReadBit]
  cases hr : readBit s with
  | ok b t =>
    rw [hr] at hread
    exact hread
  | error e t =>
    cases e with
    | raised e => cases e <;> trivial
    | ioFailed sp => trivial
    | stuck f => trivial

theorem ends_emitSymbol {s : State} (x : Byte) (hmore : s.dec.count < s.hdr.size) :
    Ends (emitSymbol x) s (fun _ t => t.hdr = s.hdr ∧ bitsLeft t = bitsLeft s ∧ s.dec.count ≤ t.dec.count ∧
      t.dec.count ≤ s.hdr.size) fun _ _ => True := by
  have hmax : s.dec.count ≠ BitVec.allOnes 64 := fun he => by
    have hsize := s.hdr.size.isLt
    rw [he, BitVec.lt_def, BitVec.toNat_allOnes] at hmore
    omega
  cases hio : ioFails s.env .out s.sink.pos with
  | true =>
    refine ends_of_error (e := .ioFailed .out) (t := s.failedAsk) ?_ trivial
    rw [emitSymbol_eq, sinkByte_of_ioFails x hio]
    rfl
  | false =>
    refine ends_bind (ends_of_ok ((sinkByte_eq x s).trans (if_neg (ne_true_of_eq_false hio)))
      (ends_bind (ends_update (ends_pure ⟨rfl, rfl, ?_⟩))))
    show s.dec.count ≤ nextDecCount s.env.countAsk s.dec.count ∧ nextDecCount s.env.countAsk s.dec.count ≤ s.hdr.size
    rw [nextDecCount, if_neg hmax]
    bv_omega

theorem ends_descend {s : State} (c : NodeIx) (hmore : s.dec.count < s.hdr.size) :
    Ends (descend c) s (fun _ t => t.hdr = s.hdr ∧ bitsLeft t = bitsLeft s ∧ s.dec.count ≤ t.dec.count ∧
      t.dec.count ≤ s.hdr.size) fun _ _ => True := by
  refine ends_ite (fun _ => ends_raise trivial) fun _ => ends_bind ?_
  cases hnode : nodeAt s.tree.node c with
  | none => exact ends_of_error (by rw [readNode_eq, hnode]) trivial
  | some ch =>
    refine ends_of_ok (a := ch) (t := s) (by rw [readNode_eq, hnode]) ?_
    cases hk : ch.kind with
    | leaf => exact ends_ite (fun _ => ends_raise trivial) fun _ => ends_emitSymbol ch.sym hmore
    | internal => exact ends_bind (ends_update (ends_pure ⟨rfl, rfl, BitVec.le_refl _, BitVec.le_of_lt hmore⟩))

/-- One step of the decode: the count goes up by one or not at all, and the reader has a bit less. -/
theorem ends_decStepBody {s : State} (hmore : s.dec.count < s.hdr.size) :
    Ends decStepBody s (fun _ t => t.hdr = s.hdr ∧ bitsLeft t < bitsLeft s ∧ s.dec.count ≤ t.dec.count ∧
      t.dec.count ≤ s.hdr.size) fun _ _ => True := by
  refine ends_bind (ends_mono (ends_decReadBit s) (fun b t ⟨hhdr, hdec, hbits⟩ => ?_) fun _ _ _ => trivial)
  refine ends_bind (ends_getState (ends_bind ?_))
  cases hnode : nodeAt t.tree.node t.dec.cur with
  | none => exact ends_of_error (by rw [readNode_eq, hnode]) trivial
  | some nd =>
    refine ends_of_ok (a := nd) (t := t) (by rw [readNode_eq, hnode]) ?_
    have hlt : t.dec.count < t.hdr.size := by rwa [hhdr, hdec]
    refine ends_mono (ends_descend _ hlt) (fun _ u ⟨hhdr', hbits', hle, hsize⟩ => ?_) fun _ _ _ => trivial
    rw [hhdr] at hhdr' hsize
    rw [hdec] at hle
    exact ⟨hhdr', hbits' ▸ hbits, hle, hsize⟩

theorem ends_decodeLoop_of_done {s : State} (k : Nat) (h : ¬ s.dec.count < s.hdr.size) :
    Ends (decodeLoop k) s (fun _ t => t.hdr = s.hdr ∧ t.dec.count.toNat = max s.dec.count.toNat s.hdr.size.toNat)
      fun _ _ => True := by
  refine ends_of_ok (decodeLoop_of_done (decide_eq_false h)) ⟨rfl, ?_⟩
  rw [BitVec.lt_def] at h
  omega

/-- Where the loop completes the count is the size, or unchanged where it was above. -/
theorem ends_decodeLoop {s : State} {k : Nat} (hk : bitsLeft s ≤ k) :
    Ends (decodeLoop k) s (fun _ t => t.hdr = s.hdr ∧ t.dec.count.toNat = max s.dec.count.toNat s.hdr.size.toNat)
      fun _ _ => True := by
  induction k generalizing s with
  | zero =>
    by_cases hmore : s.dec.count < s.hdr.size
    · refine ends_of_eq (decodeLoop_zero (decide_eq_true hmore))
        (ends_bind (ends_mono (ends_decStepBody hmore) (fun _ t ⟨_, hbits, _⟩ => ?_) fun _ _ h => h))
      omega
    · exact ends_decodeLoop_of_done 0 hmore
  | succ k ih =>
    by_cases hmore : s.dec.count < s.hdr.size
    · refine ends_of_eq (decodeLoop_succ (decide_eq_true hmore)) (ends_bind (ends_mono (ends_decStepBody hmore)
        (fun _ t ⟨hhdr, hbits, hle, hsize⟩ => ?_) fun _ _ h => h))
      refine ends_mono (ih (s := t) (by omega)) (fun _ u ⟨hhdr', hcount⟩ => ⟨hhdr'.trans hhdr, ?_⟩) fun _ _ h => h
      rw [hhdr] at hcount
      rw [BitVec.lt_def] at hmore
      rw [BitVec.le_def] at hsize
      omega
    · exact ends_decodeLoop_of_done (k + 1) hmore

theorem ends_decStream (s : State) :
    Ends decStream s (fun _ t => t.hdr = s.hdr ∧ t.dec.count.toNat = max s.dec.count.toNat s.hdr.size.toNat)
      fun _ _ => True := by
  refine ends_bind ?_
  cases hneed : hasDecoderAndHeader s with
  | false => exact ends_of_error (need_of_clear hneed) trivial
  | true => exact ends_of_ok (need_of_set hneed) (ends_bind (ends_getState (ends_decodeLoop (Nat.le_refl _))))

end

theorem ErrKind.code_ne_ok (e : ErrKind) : e.code ≠ 0x00#8 := by cases e <;> decide

/-- A command that ends with STATUS Ok has completed. -/
theorem finish_eq_ok {r : EStateM.Result Stop State Unit} {t : State} (h : finish r = .next t) (hok : t.status = 0x00#8) :
    ∃ u, r = .ok () u ∧ t = u.setStatus statusOk := by
  cases r with
  | ok _ u => exact ⟨u, rfl, (Host.Outcome.next.inj h).symm⟩
  | error e u =>
    cases e with
    | raised e =>
      rw [← Host.Outcome.next.inj h] at hok
      exact absurd hok e.code_ne_ok
    | ioFailed sp =>
      rw [← Host.Outcome.next.inj h] at hok
      exact absurd hok (ErrKind.code_ne_ok .ioError)
    | stuck f => cases h

theorem ends_ok {c : Cmd Unit} {s t : State} {Q : Unit → State → Prop} {X : Stop → State → Prop} (h : Ends c s Q X)
    (hc : c s = .ok () t) : Q () t := by
  rwa [Ends, hc] at h

section
variable {s : State} {n j k : Nat} {pre post : List Bool}

/-- The failed read, in the words of its place among the accesses. -/
theorem ReadFails.exec_decStream (hf : ReadFails n (availableBits s) pre (s.setSeqStep 0#4) j k) (hd : s.dec.valid = true)
    (hroom : s.sink.Room n) (hsplit : availableBits s = pre ++ post) (hlen : (s.walk n pre).used = pre.length)
    (hrun : decStream (s.setSeqStep 0#4) = decodeLoop ((availableBits s).length + k) (s.setSeqStep 0#4)) {r used : Nat}
    {w : Walk} (hr : r = readCount ((s.walkAsks n (availableBits s)).take j)) (hused : used = s.br.left.toNat + 8 * r)
    (hw : w = s.walk n ((availableBits s).take used)) :
    w.syms.length = j - r ∧ exec .decStream s = .next (ended
      { s with
        br := s.br.after (unread s) used
        src := { s.src with pos := s.src.pos + BitVec.ofNat 64 r }
        dec := { cur := w.node, count := s.dec.count + BitVec.ofNat 64 w.syms.length, valid := true }
        sink := { mem := (s.sink.putAll w.syms).mem, len := s.sink.len + BitVec.ofNat 64 w.syms.length
                  pos := s.sink.len + BitVec.ofNat 64 w.syms.length }
        env := askedMore s (j + 1) } 0x01#8) := by
  have hreads : r = s.br.fetched pre.length := hr.trans hf.reads
  have hall : pre.length = s.br.left.toNat + 8 * s.br.fetched pre.length := hf.used
  have hindex : j = r + (s.walk n pre).syms.length := hreads ▸ hf.index
  obtain rfl : used = pre.length := by rw [hused, hreads, ← hall]
  obtain rfl : w = s.walk n pre := by rw [hw, hsplit, List.take_left]
  have hexec := exec_decStream_of_read_ioFailed (w := s.walk n pre) hd (hroom.le (decodeWalk_bounds _ _ _ _).2) (hrun.trans hf.run)
  rw [hlen, ← hreads, ← hindex] at hexec
  exact ⟨by omega, hexec⟩

/-- The failed write, in the words of its place among the accesses. -/
theorem WriteFails.exec_decStream (hf : WriteFails n (availableBits s) pre (s.setSeqStep 0#4) j k) (hd : s.dec.valid = true)
    (h8 : s.br.left ≤ 8#4) (hroom : s.sink.Room n) (hsplit : availableBits s = pre ++ post)
    (hlen : (s.walk n pre).used = pre.length)
    (hrun : decStream (s.setSeqStep 0#4) = decodeLoop ((availableBits s).length + k) (s.setSeqStep 0#4)) {r used : Nat}
    {w : Walk} (hr : r = readCount ((s.walkAsks n (availableBits s)).take j))
    (hused : used = (s.walk (j - r + 1) (availableBits s)).used)
    (hw : w = s.walk n ((availableBits s).take (used - 1))) :
    w.syms.length = j - r ∧ exec .decStream s = .next (ended
      { s with
        br := s.br.after (unread s) used
        src := { s.src with pos := s.src.pos + BitVec.ofNat 64 r }
        dec := { cur := w.node, count := s.dec.count + BitVec.ofNat 64 w.syms.length, valid := true }
        sink := { mem := (s.sink.putAll w.syms).mem, len := s.sink.len + BitVec.ofNat 64 w.syms.length
                  pos := s.sink.len + BitVec.ofNat 64 w.syms.length }
        env := askedMore s (j + 1) } 0x01#8) := by
  have hreads : r = s.br.fetched (pre.length + 1) := hr.trans hf.reads
  have hone : (s.walk ((s.walk n pre).syms.length + 1) (availableBits s)).used = pre.length + 1 := hf.used
  have hindex : j = r + (s.walk n pre).syms.length := hreads ▸ hf.index
  obtain rfl : used = pre.length + 1 := by rw [hused, ← hone, hindex, Nat.add_sub_cancel_left]
  obtain rfl : w = s.walk n pre := by rw [hw, hsplit, Nat.add_sub_cancel, List.take_left]
  have hexec := exec_decStream_of_write_ioFailed (w := s.walk n pre) hd h8 hsplit hlen (hroom.le (decodeWalk_bounds _ _ _ _).2)
    (hrun.trans hf.run)
  rw [hlen, ← hreads, ← hindex] at hexec
  exact ⟨by omega, hexec⟩

end

/-- Settles O46: the loop beside the walk over the bits it can read, and for any state the count with which it completes. -/
theorem decStreamDecodes : Obligations.DecStreamDecodes := by
  refine ⟨?_, ?_⟩
  · rintro s n asks hd hh htree hlt hkind h8 hwf hend hfits hn rfl
    have hroom : s.sink.Room n := ⟨hend, by omega⟩
    have h : Traversing n (availableBits s) s := ⟨rfl, h8, htree, hlt, hkind, hroom, by omega⟩
    refine ⟨fun w hio hw => ⟨⟨_, ?_, exec_decStream_of_noneFails hd hh h hio hw⟩, ?_⟩, ?_⟩
    · exact holds_putAll (hroom.le (hw ▸ (decodeWalk_bounds _ _ _ _).2)) hwf
    · intro hreached hpos
      obtain ⟨m, rfl⟩ := Nat.exists_eq_add_one_of_ne_zero (Nat.ne_zero_of_lt hpos)
      rw [hw] at hreached ⊢
      exact ⟨decodeWalk_reached _ _ _ _ hreached, decodeWalk_reached_node _ hreached⟩
    · intro k r used w hio hr hused
      obtain ⟨pre, b, post, l, hsplit, hlen, -, hrun, hfails⟩ :=
        decStream_of_firstFails (s := s.setSeqStep 0#4) hd hh (h.setSeqStep 0#4) hio
      obtain hf | hf := hfails
      · obtain ⟨-, hused, hw⟩ := hused.resolve_right fun ho => absurd (hf.kind.symm.trans ho.1) (by decide)
        obtain ⟨hsyms, hexec⟩ := hf.exec_decStream hd hroom hsplit hlen hrun hr hused hw
        exact ⟨hsyms, _, holds_putAll (hroom.le (hw ▸ (decodeWalk_bounds _ _ _ _).2)) hwf, hexec⟩
      · obtain ⟨-, hused, hw⟩ := hused.resolve_left fun ho => absurd (hf.kind.symm.trans ho.1) (by decide)
        obtain ⟨hsyms, hexec⟩ := hf.exec_decStream hd h8 hroom hsplit hlen hrun hr hused hw
        exact ⟨hsyms, _, holds_putAll (hroom.le (hw ▸ (decodeWalk_bounds _ _ _ _).2)) hwf, hexec⟩
  · intro s t ht hok
    obtain ⟨u, hu, rfl⟩ := finish_eq_ok ht hok
    obtain ⟨hhdr, hcount⟩ := ends_ok (ends_decStream _) hu
    refine ⟨hhdr, fun hle => BitVec.eq_of_toNat_eq ?_, fun hlt => BitVec.eq_of_toNat_eq ?_⟩
    · rw [BitVec.le_def] at hle
      exact hcount.trans (Nat.max_eq_right hle)
    · rw [BitVec.lt_def] at hlt
      exact hcount.trans (Nat.max_eq_left hlt.le)

end Sys2Proof.Machine
end

section
/-! What stands at the start of a source that is read as a container (46_container_format.md R133): a wrong magic, a header
cut short, or a complete header and a payload. -/
namespace Sys2Proof.Machine

/-! ### Big-endian numbers -/

theorem beBytes_add_mul (n a v : Nat) : beBytes n (a * 256 ^ n + v) = beBytes n v := by
  induction n generalizing a with
  | zero => rfl
  | succ n ih =>
    have hsplit : a * 256 ^ (n + 1) + v = a * 256 * 256 ^ n + v := by rw [Nat.pow_succ]; ring
    have hdiv : (a * 256 * 256 ^ n + v) / 256 ^ n = a * 256 + v / 256 ^ n := by
      rw [Nat.add_comm, Nat.add_mul_div_right _ _ (Nat.pow_pos (by decide)), Nat.add_comm]
    rw [beBytes, beBytes, hsplit, ih, hdiv]
    congr 1
    apply BitVec.eq_of_toNat_eq
    rw [BitVec.toNat_ofNat, BitVec.toNat_ofNat]
    omega

theorem beValue_cons (b : Byte) (bs : List Byte) : beValue (b :: bs) = b.toNat * 256 ^ bs.length + beValue bs := by
  rw [beValue, List.foldl_cons, Nat.zero_mul, Nat.zero_add, beValue_foldl]

theorem beValue_lt (bs : List Byte) : beValue bs < 256 ^ bs.length := by
  induction bs with
  | nil => exact Nat.one_pos
  | cons b bs ih =>
    have hb : b.toNat * 256 ^ bs.length ≤ 255 * 256 ^ bs.length := Nat.mul_le_mul_right _ (by have := b.isLt; omega)
    rw [beValue_cons, List.length_cons, Nat.pow_succ]
    omega

/-- The bytes of the number that bytes make. -/
theorem beBytes_beValue (bs : List Byte) : beBytes bs.length (beValue bs) = bs := by
  induction bs with
  | nil => rfl
  | cons b bs ih =>
    have hdiv : (b.toNat * 256 ^ bs.length + beValue bs) / 256 ^ bs.length = b.toNat := by
      rw [Nat.add_comm, Nat.add_mul_div_right _ _ (Nat.pow_pos (by decide)), Nat.div_eq_of_lt (beValue_lt bs), Nat.zero_add]
    rw [beValue_cons, List.length_cons, beBytes, beBytes_add_mul, ih, hdiv, BitVec.ofNat_toNat, BitVec.setWidth_eq]

theorem be64Bytes_be64Value {bs : List Byte} (h : bs.length = 8) : be64Bytes (be64Value bs) = bs := by
  have hlt := beValue_lt bs
  rw [h] at hlt
  rw [be64Bytes, be64Value, BitVec.toNat_ofNat, Nat.mod_eq_of_lt (by omega), ← h, beBytes_beValue]

theorem be32Bytes_be32Value {bs : List Byte} (h : bs.length = 4) : be32Bytes (be32Value bs) = bs := by
  have hlt := beValue_lt bs
  rw [h] at hlt
  rw [be32Bytes, be32Value, BitVec.toNat_ofNat, Nat.mod_eq_of_lt (by omega), ← h, beBytes_beValue]

/-! ### The forms of a header -/

/-- Five bytes for each entry are entries. -/
theorem exists_entries {n : Nat} {bs : List Byte} (h : bs.length = 5 * n) :
    ∃ ents : List HdrEntry, ents.length = n ∧ ents.flatMap hdrEntryBytes = bs := by
  induction n generalizing bs with
  | zero => exact ⟨[], rfl, (List.eq_nil_of_length_eq_zero h).symm⟩
  | succ n ih =>
    match bs, h with
    | x :: f0 :: f1 :: f2 :: f3 :: bs, h =>
      obtain ⟨ents, hlen, hents⟩ := ih (bs := bs) (by simp only [List.length_cons] at h; omega)
      refine ⟨{ sym := x, freq := be32Value [f0, f1, f2, f3] } :: ents, congrArg (· + 1) hlen, ?_⟩
      rw [List.flatMap_cons, hents, hdrEntryBytes, be32Bytes_be32Value rfl]
      rfl

/-- Enough bytes after the right magic are a complete header and a payload. -/
theorem exists_headerOf {rest : List Byte} (h10 : 9 < rest.length) (hents : 10 + 5 * rest[8].toNat ≤ rest.length) :
    ∃ (z : Word) (n p : Byte) (ents : List HdrEntry) (payload : List Byte), ents.length = n.toNat ∧
      0x48#8 :: 0x46#8 :: rest = headerOf z n p ents ++ payload := by
  obtain ⟨ents, hlen, hbytes⟩ := exists_entries (n := rest[8].toNat) (bs := (rest.drop 10).take (5 * rest[8].toNat))
    (by rw [List.length_take, List.length_drop]; omega)
  refine ⟨be64Value (rest.take 8), rest[8], rest[9], ents, (rest.drop 10).drop (5 * rest[8].toNat), hlen, ?_⟩
  have hsplit : rest = rest.take 8 ++ rest[8] :: rest[9] :: rest.drop 10 := by
    rw [← List.drop_eq_getElem_cons, ← List.drop_eq_getElem_cons, List.take_append_drop]
  rw [headerOf_eq_cons, hbytes, be64Bytes_be64Value (List.length_take_of_le (by omega)), List.cons_append, List.cons_append,
    List.append_assoc, List.cons_append, List.cons_append, List.take_append_drop, ← hsplit]
  rfl

/-- A source begins with a wrong magic, ends inside the header, or begins with a complete header. -/
theorem header_cases (bs : List Byte) :
    (∃ m0 m1 rest, bs = m0 :: m1 :: rest ∧ (m0 ≠ 0x48#8 ∨ m1 ≠ 0x46#8)) ∨ HeaderTruncated bs ∨
      ∃ (z : Word) (n p : Byte) (ents : List HdrEntry) (payload : List Byte), ents.length = n.toNat ∧
        bs = headerOf z n p ents ++ payload := by
  match bs with
  | [] => exact .inr (.inl (.inl (by decide : 0 < 2)))
  | [_] => exact .inr (.inl (.inl (by decide : 1 < 2)))
  | m0 :: m1 :: rest =>
    by_cases hbad : m0 ≠ 0x48#8 ∨ m1 ≠ 0x46#8
    · exact .inl ⟨m0, m1, rest, rfl, hbad⟩
    · obtain ⟨rfl, rfl⟩ : m0 = 0x48#8 ∧ m1 = 0x46#8 := by
        rwa [not_or, not_not, not_not] at hbad
      refine .inr ?_
      by_cases h10 : rest.length < 10
      · exact .inl (.inr ⟨rest, rfl, .inl h10⟩)
      · by_cases hents : rest.length < 10 + 5 * (rest[8]'(by omega)).toNat
        · exact .inl (.inr ⟨rest, rfl, .inr ⟨_, List.getElem?_eq_getElem _, hents⟩⟩)
        · exact .inr (exists_headerOf (by omega) (by omega))

end Sys2Proof.Machine
end

section
/-! DECOMPRESS step by step (48_decode_traversal.md R156): the header, the tree, and the decode of the payload. -/
namespace Sys2Proof.Machine

/-! ### Step 1: the header -/

theorem headerReads_headerOf (z : Word) {n p : Byte} {ents : List HdrEntry} (payload : List Byte) (hn : ents.length = n.toNat) :
    headerReads (headerOf z n p ents ++ payload) = 12 + 5 * ents.length := by
  have hmagic : (headerOf z n p ents ++ payload).take 2 = [0x48#8, 0x46#8] := by
    rw [headerOf_eq_cons]
    rfl
  have hnum : (headerOf z n p ents ++ payload).getD 10 0#8 = n := by
    have hlen : (be64Bytes z).length = 8 := length_be64Bytes z
    rw [headerOf_eq_cons, List.cons_append, List.cons_append, List.getD_cons_succ, List.getD_cons_succ, List.append_assoc,
      List.getD_append_right _ _ _ _ (by omega), hlen]
    rfl
  rw [headerReads, if_pos hmagic, hnum, List.length_append, length_headerOf, hn]
  omega

/-- DECOMPRESS from step 2 on. -/
def decodeSteps : Cmd Unit := do
  seqStep 2#4
  checkHeader
  seqStep 3#4
  tbBuild
  seqStep 4#4
  sinkOpen
  brInit
  decInit
  decStreamInSequence
  seqStep 0#4

theorem decompress_eq_header (s : State) : decompress s = (cfReadHeader >>= fun _ => decodeSteps) s.rewound := by
  rw [decompress, Cmd.run_bind_ok (seqStep_eq _ _), Cmd.run_bind_ok (srcOpen_eq _)]
  rfl

/-- The state after a complete header. -/
def State.headed (s : State) (z : Word) (n p : Byte) (ents : List HdrEntry) : State :=
  { s with
    seqStep := 1#4
    ft := tableOf ents
    tree := { s.tree with valid := false }
    codes := { s.codes with valid := false }
    hdr := { magic := 0x4846#16, size := z, num := n, pad := p, ent := hdrEntPutAll s.hdr.ent 0 ents, valid := true }
    dec := { s.dec with valid := false }
    src := { s.src with pos := BitVec.ofNat 64 (12 + 5 * ents.length) }
    env := askedMore s (12 + 5 * ents.length) }

theorem State.headerCut_frame (s : State) (bs : List Byte) (v : Env) :
    (s.headerCut bs v).seqStep = s.seqStep ∧ (s.headerCut bs v).sink = s.sink := by
  simp only [State.headerCut, State.setEnv, State.setFt, State.setHdr, State.readPast, State.setSrc, State.dropTree,
    State.setDec, State.setCodes, State.setTree, and_self]

theorem State.badMagic_frame (s : State) (n : Nat) (h : Header) (ft : Vector FtEntry 256) :
    (((s.dropTree.readPast n).setHdr h).setFt ft).seqStep = s.seqStep ∧
      (((s.dropTree.readPast n).setHdr h).setFt ft).sink = s.sink := by
  simp only [State.setEnv, State.setFt, State.setHdr, State.readPast, State.setSrc, State.dropTree, State.setDec,
    State.setCodes, State.setTree, and_self]

theorem State.setHdr_readPast_dropTree (s : State) (n : Nat) (h : Header) (ft : Vector FtEntry 256) :
    ((s.dropTree.readPast n).setHdr h).setFt ft =
      { s with
        ft := ft
        tree := { s.tree with valid := false }
        codes := { s.codes with valid := false }
        hdr := h
        dec := { s.dec with valid := false }
        src := { s.src with pos := s.src.pos + BitVec.ofNat 64 n }
        env := askedMore s n } := by
  simp only [State.setFt, State.setHdr, State.readPast, State.setSrc, State.setEnv, State.dropTree, State.setTree,
    State.setCodes, State.setDec, askedMore]

section
variable {s : State}

/-- How step 1 fails, with OUT untouched (46_container_format.md R136). -/
theorem decompress_of_header_ioFails {k : Nat} (hio : FirstFails s (readAsks 0#64 (headerReads (inBytes s))) k) :
    ∃ t, decompress s = .error (.ioFailed .inp) t ∧ t.seqStep = 1#4 ∧ t.sink = s.sink := by
  rw [← unread_rewound s] at hio
  obtain ⟨-, hcut⟩ := cutAfter_of_firstFails (s := s.rewound) ((firstFails_congr (t := s.rewound) rfl).1 hio) (headerReads_le _)
  have hrun := cfReadHeader_of_cut hcut (headerCut_take (by simpa using hio.lt))
  exact ⟨_, (decompress_eq_header s).trans (Cmd.run_bind_error hrun), State.headerCut_frame _ _ _⟩

theorem decompress_of_bad_magic {m0 m1 : Byte} {rest : List Byte} (hbs : inBytes s = m0 :: m1 :: rest)
    (hbad : m0 ≠ 0x48#8 ∨ m1 ≠ 0x46#8) (hio : NoneFails s (readAsks 0#64 (headerReads (inBytes s)))) :
    ∃ t, decompress s = .error (.raised .badMagic) t ∧ t.seqStep = 1#4 ∧ t.sink = s.sink := by
  rw [hbs, headerReads_of_bad_magic hbad] at hio
  have hread : CanRead s.rewound [m0, m1] :=
    ⟨(noneFails_congr (t := s.rewound) rfl).1 hio, rest, ((unread_rewound s).trans hbs).symm⟩
  exact ⟨_, (decompress_eq_header s).trans (Cmd.run_bind_error (cfReadHeader_of_bad_magic hread hbad)),
    State.badMagic_frame _ _ _ _⟩

theorem decompress_of_truncated (htr : HeaderTruncated (inBytes s))
    (hio : NoneFails s (readAsks 0#64 (headerReads (inBytes s)))) :
    ∃ t, decompress s = .error (.raised .truncatedHeader) t ∧ t.seqStep = 1#4 ∧ t.sink = s.sink := by
  rw [headerReads_of_truncated htr, ← unread_rewound s] at hio
  have hcut := cutAfter_unread (s := s.rewound) ((noneFails_congr (t := s.rewound) rfl).1 hio)
  have hrun := cfReadHeader_of_cut hcut (unread_rewound s ▸ htr.headerCut)
  exact ⟨_, (decompress_eq_header s).trans (Cmd.run_bind_error hrun), State.headerCut_frame _ _ _⟩

section
variable {z : Word} {n p : Byte} {ents : List HdrEntry} {payload : List Byte} (hn : ents.length = n.toNat)
  (hbs : inBytes s = headerOf z n p ents ++ payload)
include hn hbs

theorem decompress_of_header (hio : NoneFails s (readAsks 0#64 (12 + 5 * ents.length))) :
    decompress s = decodeSteps (s.headed z n p ents) := by
  have hread : CanRead s.rewound (headerOf z n p ents) :=
    ⟨by rw [length_headerOf]; exact (noneFails_congr (t := s.rewound) rfl).1 hio,
      payload, ((unread_rewound s).trans hbs).symm⟩
  have hmagic : Config.magic0 ++ Config.magic1 = 0x4846#16 := rfl
  have hpos : 0#64 + BitVec.ofNat 64 (12 + 5 * ents.length) = BitVec.ofNat 64 (12 + 5 * ents.length) := BitVec.zero_add _
  rw [decompress_eq_header, Cmd.run_bind_ok (cfReadHeader_of_canRead hn hread), State.setHdr_readPast_dropTree, hmagic,
    State.rewound, State.headed]
  simp only [hpos]
  rfl

omit hn in
theorem unread_headed : unread (s.headed z n p ents) = payload := by
  have hlen : 12 + 5 * ents.length ≤ (unread s.rewound).length := by
    rw [unread_rewound, hbs, List.length_append, length_headerOf]
    omega
  have hsrc : (s.headed z n p ents).src = (s.rewound.readPast (12 + 5 * ents.length)).src := by
    have hpos : 0#64 + BitVec.ofNat 64 (12 + 5 * ents.length) = BitVec.ofNat 64 (12 + 5 * ents.length) := BitVec.zero_add _
    show _ = ({ s.src with pos := 0#64 + BitVec.ofNat 64 (12 + 5 * ents.length) } : Stream)
    rw [hpos]
    rfl
  rw [unread_congr hsrc, unread_readPast hlen, unread_rewound, hbs, ← length_headerOf z n p ents, List.drop_left]

end

/-! ### Steps 2 and 3: the checks and the tree -/

section
variable {z : Word} {n p : Byte} {ents : List HdrEntry}

theorem decodeSteps_of_corrupt (h : z = 0#64 ∨ ftN (tableOf ents) = 0) :
    decodeSteps (s.headed z n p ents) = .error (.raised .corruptHeader) ((s.headed z n p ents).setSeqStep 2#4) := by
  have hcheck : checkHeader ((s.headed z n p ents).setSeqStep 2#4) = .error (.raised .corruptHeader) _ := if_pos h
  rw [decodeSteps, Cmd.run_bind_ok (seqStep_eq _ _), Cmd.run_bind_error hcheck]

/-- The state at the start of the decode. -/
def State.primed (s : State) (z : Word) (n p : Byte) (ents : List HdrEntry) (t : Tree) (seq : Nat) : State :=
  { s with
    seqStep := 4#4
    ft := tableOf ents
    queue := { entries := [], seq := seq }
    tree := t
    codes := { s.codes with valid := false }
    br := .init
    hdr := { magic := 0x4846#16, size := z, num := n, pad := p, ent := hdrEntPutAll s.hdr.ent 0 ents, valid := true }
    dec := { cur := t.root, count := 0#64, valid := true }
    src := { s.src with pos := BitVec.ofNat 64 (12 + 5 * ents.length) }
    sink := { s.sink with len := 0#64, pos := 0#64 }
    env := askedMore s (12 + 5 * ents.length) }

theorem State.built_eq (s : State) (t : Tree) (seq : Nat) :
    s.built t seq =
      { s with
        queue := { entries := [], seq := seq }, tree := t, codes := { s.codes with valid := false },
        dec := { s.dec with valid := false } } := rfl

/-- What steps 3 and 4 do before the decode. -/
def State.begun (s : State) (t : Tree) (seq : Nat) : State :=
  { s with
    seqStep := 4#4, queue := { entries := [], seq := seq }, tree := t, codes := { s.codes with valid := false },
    br := .init, dec := { cur := t.root, count := 0#64, valid := true },
    sink := { s.sink with len := 0#64, pos := 0#64 } }

theorem State.begun_eq (s : State) (t : Tree) (seq : Nat) :
    ((((s.built t seq).setSeqStep 4#4).setSink { ((s.built t seq).setSeqStep 4#4).sink with len := 0#64, pos := 0#64 }).setBr
      .init).setDec { cur := t.root, count := 0#64, valid := true } = s.begun t seq := by
  rw [State.built_eq, State.begun]
  simp only [State.setSeqStep, State.setSink, State.setBr, State.setDec]

theorem State.begun_headed (s : State) (z : Word) (n p : Byte) (ents : List HdrEntry) (t : Tree) (seq : Nat) :
    ((s.headed z n p ents).setSeqStep 3#4).begun t seq = s.primed z n p ents t seq := by
  simp only [State.begun, State.headed, State.setSeqStep, State.primed]

theorem decodeSteps_eq (hz : z ≠ 0#64) (hft : ftN (tableOf ents) ≠ 0) {t : Tree} {seq : Nat} (hvalid : t.valid = true)
    (hbuild : tbBuild ((s.headed z n p ents).setSeqStep 3#4) = .ok () (((s.headed z n p ents).setSeqStep 3#4).built t seq)) :
    decodeSteps (s.headed z n p ents) = (decStreamInSequence >>= fun _ => seqStep 0#4) (s.primed z n p ents t seq) := by
  have hcheck : checkHeader ((s.headed z n p ents).setSeqStep 2#4) = .ok () _ := checkHeader_of_ok hz hft
  have hbuild : tbBuild (((s.headed z n p ents).setSeqStep 2#4).setSeqStep 3#4) = _ := hbuild
  rw [decodeSteps, Cmd.run_bind_ok (seqStep_eq _ _), Cmd.run_bind_ok hcheck, Cmd.run_bind_ok (seqStep_eq _ _),
    Cmd.run_bind_ok hbuild, Cmd.run_bind_ok (seqStep_eq _ _), Cmd.run_bind_ok (sinkOpen_eq _), Cmd.run_bind_ok (brInit_eq _),
    ← State.begun_headed, ← State.begun_eq]
  exact Cmd.run_bind_ok (decInit_of_tree hvalid)

end

/-! ### Step 4: the decode -/

theorem mem_presentSyms_tableOf {ents : List HdrEntry} {x : Byte} :
    x ∈ presentSyms (tableOf ents) ↔ x ∈ ents.map HdrEntry.sym := by
  have hfold (acc : Vector FtEntry 256) : (ftAt (ents.foldl ftPutEntry acc) x).present = true ↔
      x ∈ ents.map HdrEntry.sym ∨ (ftAt acc x).present = true := by
    induction ents generalizing acc with
    | nil => simp
    | cons e ents ih =>
      rw [List.foldl_cons, ih, ftPutEntry, ftAt_ftPut, List.map_cons, List.mem_cons]
      by_cases hx : x = e.sym
      · simp [hx]
      · simp [hx]
  rw [mem_presentSyms]
  refine (hfold ftEmpty).trans ?_
  rw [ftAt_ftEmpty]
  exact or_iff_left Bool.false_ne_true

theorem presentSyms_tableOf_ne_nil {ents : List HdrEntry} (h : ents ≠ []) : presentSyms (tableOf ents) ≠ [] := by
  obtain ⟨e, es, rfl⟩ := List.exists_cons_of_ne_nil h
  exact List.ne_nil_of_mem (mem_presentSyms_tableOf.2 (List.mem_map_of_mem List.mem_cons_self))

/-- A container that step 2 accepts, and the tree that step 3 makes of its table. -/
structure Opens (s : State) (z : Word) (n p : Byte) (ents : List HdrEntry) (payload : List Byte) (t : Tree) (seq : Nat) :
    Prop where
  num : ents.length = n.toNat
  bytes : inBytes s = headerOf z n p ents ++ payload
  size : z ≠ 0#64
  entries : ents ≠ []
  valid : t.valid = true
  inv : TreeInv t
  build : ∀ u : State, u.ft = tableOf ents → u.env.tieRank = s.env.tieRank → u.tree.node = s.tree.node →
    tbBuild u = .ok () (u.built t seq)

theorem exists_opens {z : Word} {n p : Byte} {ents : List HdrEntry} {payload : List Byte} (hn : ents.length = n.toNat)
    (hbs : inBytes s = headerOf z n p ents ++ payload) (hz : z ≠ 0#64) (hn0 : n ≠ 0#8) :
    ∃ t seq, Opens s z n p ents payload t seq := by
  have hne : ents ≠ [] := by
    rintro rfl
    exact hn0 (BitVec.eq_of_toNat_eq hn.symm)
  have hsyms : presentSyms (s.setFt (tableOf ents)).ft ≠ [] := presentSyms_tableOf_ne_nil hne
  obtain ⟨t, seq, ht, -, hvalid, hinv⟩ := tbBuild_congr (s := s.setFt (tableOf ents)) (u := s.setFt (tableOf ents)) rfl rfl rfl
    hsyms
  refine ⟨t, seq, hn, hbs, hz, hne, hvalid, hinv, fun u hft hrank hnode => ?_⟩
  obtain ⟨t', seq', ht', hu, -⟩ := tbBuild_congr (s := s.setFt (tableOf ents)) (u := u) hft.symm hrank.symm hnode.symm hsyms
  rw [ht] at ht'
  injection ht' with _ hsame
  obtain rfl : t = t' := congrArg State.tree hsame
  obtain rfl : seq = seq' := congrArg (fun v : State => v.queue.seq) hsame
  exact hu

section
variable {z : Word} {n p : Byte} {ents : List HdrEntry} {payload : List Byte} {t : Tree} {seq : Nat}
  (h : Opens s z n p ents payload t seq)
include h

theorem Opens.ftN_ne_zero : ftN (tableOf ents) ≠ 0 := fun h0 =>
  presentSyms_tableOf_ne_nil h.entries (List.eq_nil_of_length_eq_zero h0)

theorem Opens.unread_primed : unread (s.primed z n p ents t seq) = payload :=
  (unread_congr rfl).trans (unread_headed h.bytes)

theorem Opens.availableBits_primed : availableBits (s.primed z n p ents t seq) = bytesBits payload := by
  rw [availableBits, h.unread_primed]
  rfl

theorem Opens.traversing : Traversing z.toNat (availableBits (s.primed z n p ents t seq)) (s.primed z n p ents t seq) where
  bits := rfl
  left := (by decide : BitReader.init.left ≤ 8#4)
  tree := h.inv
  cur_lt := by
    have := h.inv.rootLast
    show t.root.toNat < t.cnt.toNat
    omega
  cur_internal := h.inv.rootInternal
  room := ⟨rfl, (Nat.zero_add _).trans_lt z.isLt⟩
  count := .inl (Nat.zero_add _)

omit h in
theorem env_primed : (s.primed z n p ents t seq).env = askedMore s (readAsks 0#64 (12 + 5 * ents.length)).length := by
  rw [length_readAsks]
  rfl

/-- The accesses of DECOMPRESS are those of the header, then those of the walk. -/
theorem Opens.decompressAsks_eq : decompressAsks t z ents.length payload = readAsks 0#64 (12 + 5 * ents.length) ++
    (s.primed z n p ents t seq).walkAsks z.toNat (availableBits (s.primed z n p ents t seq)) := by
  rw [h.availableBits_primed]
  rfl

theorem Opens.decompress_eq (hio : NoneFails s (readAsks 0#64 (12 + 5 * ents.length))) :
    decompress s = (decStreamInSequence >>= fun _ => seqStep 0#4) (s.primed z n p ents t seq) := by
  rw [decompress_of_header h.num h.bytes hio]
  exact decodeSteps_eq h.size h.ftN_ne_zero h.valid (h.build _ rfl rfl rfl)

end

theorem decStreamInSequence_of_error {t : State} {e : Stop} (h : decStream s = .error e t) :
    decStreamInSequence s = .error e (t.setSeqStep (seqOfStop e)) := by
  rw [decStreamInSequence, h]

/-- A failed access of the decode, whichever it is: its kind, the symbols before it, and OUT. -/
theorem exists_stop {u : State} {m j k : Nat} {bits pre : List Bool} (h : ReadFails m bits pre u j k ∨ WriteFails m bits pre u j k) :
    ∃ (sp : Space) (v : State), ((u.walkAsks m bits)[j]?).map Prod.fst = some sp ∧
      decodeLoop (bits.length + k) u = .error (.ioFailed sp) v ∧ v.sink = u.sink.putAll (u.walk m pre).syms ∧
      j = readCount ((u.walkAsks m bits).take j) + (u.walk m pre).syms.length := by
  obtain h | h := h
  · exact ⟨.inp, _, h.kind, h.run, rfl, h.reads ▸ h.index⟩
  · exact ⟨.out, _, h.kind, h.run, rfl, h.reads ▸ h.index⟩

/-- The state after the walk over the payload. -/
def State.unpacked (s : State) (z : Word) (n p : Byte) (ents : List HdrEntry) (t : Tree) (seq : Nat) (payload : List Byte)
    (w : Walk) : State :=
  { s with
    seqStep := w.outcome.seqStep
    ft := tableOf ents
    queue := { entries := [], seq := seq }
    tree := t
    codes := { s.codes with valid := false }
    br := { BitReader.init.after payload w.used with finished := decide (w.outcome = .ranOut) }
    hdr := { magic := 0x4846#16, size := z, num := n, pad := p, ent := hdrEntPutAll s.hdr.ent 0 ents, valid := true }
    dec := { cur := w.node, count := BitVec.ofNat 64 w.syms.length, valid := true }
    src := { s.src with pos := BitVec.ofNat 64 (12 + 5 * ents.length + BitReader.init.fetched w.used) }
    sink := { mem := ({ s.sink with len := 0#64, pos := 0#64 } : Stream).putAll w.syms |>.mem,
              len := BitVec.ofNat 64 w.syms.length, pos := BitVec.ofNat 64 w.syms.length }
    env := askedMore s (12 + 5 * ents.length + BitReader.init.fetched w.used + w.syms.length) }

/-- The state after the walk, with its SEQ_STEP and BR_FINISHED still as they were. -/
theorem Opens.walked_primed {z : Word} {n p : Byte} {ents : List HdrEntry} {payload : List Byte} {t : Tree} {seq : Nat}
    (h : Opens s z n p ents payload t seq) {w : Walk} (hw : w.syms.length ≤ z.toNat) :
    (s.primed z n p ents t seq).walked w =
      { s.unpacked z n p ents t seq payload w with seqStep := 4#4, br := BitReader.init.after payload w.used } := by
  have hpos : BitVec.ofNat 64 (12 + 5 * ents.length) + BitVec.ofNat 64 (BitReader.init.fetched w.used) =
      BitVec.ofNat 64 (12 + 5 * ents.length + BitReader.init.fetched w.used) := (BitVec.ofNat_add ..).symm
  have henv : askedMore (s.primed z n p ents t seq) (BitReader.init.fetched w.used + w.syms.length) =
      askedMore s (12 + 5 * ents.length + BitReader.init.fetched w.used + w.syms.length) := by
    rw [askedMore_askedMore (s := s) rfl, Nat.add_assoc (12 + 5 * ents.length)]
  have hzero (k : Nat) : 0#64 + BitVec.ofNat 64 k = BitVec.ofNat 64 k := BitVec.zero_add _
  have hun := h.unread_primed
  rw [State.walked_eq rfl (h.traversing.room.le hw), hun]
  have hbr : (s.primed z n p ents t seq).br = .init := rfl
  rw [hbr, henv]
  simp only [State.primed, State.unpacked, hpos, hzero]

theorem exec_decompress_of_raised {t : State} {e : ErrKind} (h : decompress s = .error (.raised e) t) :
    exec .decompress s = .next (t.setStatus e.code) := by
  show finish (decompress s) = _
  rw [h]
  rfl

theorem exec_decompress_of_ioFailed {t : State} {sp : Space} (h : decompress s = .error (.ioFailed sp) t) :
    exec .decompress s = .next (t.setStatus 0x01#8) := by
  show finish (decompress s) = _
  rw [h]
  rfl

theorem exec_decompress_of_ok {t : State} (h : decompress s = .ok () t) :
    exec .decompress s = .next (t.setStatus 0x00#8) := by
  show finish (decompress s) = _
  rw [h]
  rfl

theorem BitReader.finished_after (r : BitReader) (bs : List Byte) (k : Nat) : (r.after bs k).finished = r.finished := by
  rw [BitReader.after]
  split <;> rfl

theorem State.unpacked_setSeqStep (s : State) (z : Word) (n p : Byte) (ents : List HdrEntry) (t : Tree) (seq : Nat)
    (payload : List Byte) (w : Walk) (h : w.outcome ≠ .ranOut) :
    ({ s.unpacked z n p ents t seq payload w with seqStep := 4#4, br := BitReader.init.after payload w.used }
      : State).setSeqStep w.outcome.seqStep = s.unpacked z n p ents t seq payload w := by
  have hfinished : decide (w.outcome = .ranOut) = (BitReader.init.after payload w.used).finished := by
    rw [BitReader.finished_after, decide_eq_false h]
    rfl
  simp only [State.unpacked, State.setSeqStep, hfinished]

theorem State.unpacked_setFinished (s : State) (z : Word) (n p : Byte) (ents : List HdrEntry) (t : Tree) (seq : Nat)
    (payload : List Byte) (w : Walk) (h : w.outcome = .ranOut) :
    (({ s.unpacked z n p ents t seq payload w with seqStep := 4#4, br := BitReader.init.after payload w.used }
      : State).setFinished).setSeqStep 6#4 = s.unpacked z n p ents t seq payload w := by
  have hfinished : decide (w.outcome = .ranOut) = true := decide_eq_true h
  have hstep : w.outcome.seqStep = 6#4 := by rw [h]; rfl
  simp only [State.unpacked, State.setSeqStep, State.setFinished, State.setBr, hfinished, hstep]

section
variable {z : Word} {n p : Byte} {ents : List HdrEntry} {payload : List Byte} {t : Tree} {seq : Nat}
  (h : Opens s z n p ents payload t seq)
include h

/-- DECOMPRESS of a container where no access fails. -/
theorem Opens.exec_decompress_of_noneFails (hio : NoneFails s (decompressAsks t z ents.length payload)) {w : Walk}
    (hw : w = decodeWalk t t.root z.toNat (bytesBits payload)) :
    exec .decompress s = .next ((s.unpacked z n p ents t seq payload w).setStatus w.outcome.status) := by
  rw [h.decompressAsks_eq] at hio
  have hrun := decStream_of_noneFails (s := s.primed z n p ents t seq) rfl rfl h.traversing (hio.append_right env_primed)
  have hwalk : (s.primed z n p ents t seq).walk z.toNat (availableBits (s.primed z n p ents t seq)) = w := by
    rw [h.availableBits_primed]
    exact hw.symm
  rw [hwalk, h.walked_primed (hw ▸ (decodeWalk_bounds _ _ _ _).2)] at hrun
  have hall := h.decompress_eq hio.append_left
  cases hend : w.outcome with
  | reached =>
    have hstate := s.unpacked_setSeqStep z n p ents t seq payload w (by rw [hend]; decide)
    rw [hend] at hrun hstate
    rw [Cmd.run_bind_ok (decStreamInSequence_of_ok hrun), seqStep_eq] at hall
    exact (exec_decompress_of_ok hall).trans (congrArg (fun u : State => Host.Outcome.next (u.setStatus 0x00#8)) hstate)
  | ranOut =>
    have hstate := s.unpacked_setFinished z n p ents t seq payload w hend
    rw [hend] at hrun
    rw [Cmd.run_bind_error (decStreamInSequence_of_error hrun)] at hall
    exact (exec_decompress_of_raised hall).trans (congrArg (fun u : State => Host.Outcome.next (u.setStatus 0x08#8)) hstate)
  | deadEnd =>
    have hstate := s.unpacked_setSeqStep z n p ents t seq payload w (by rw [hend]; decide)
    rw [hend] at hrun hstate
    rw [Cmd.run_bind_error (decStreamInSequence_of_error hrun)] at hall
    exact (exec_decompress_of_raised hall).trans (congrArg (fun u : State => Host.Outcome.next (u.setStatus 0x0A#8)) hstate)

omit h in
/-- Past the reads of the header, what an access is and how many reads come before it. -/
theorem readAsks_append_at (m j : Nat) (as : List Access) : (readAsks 0#64 m ++ as)[m + j]? = as[j]? ∧
    readCount ((readAsks 0#64 m ++ as).take (m + j)) = m + readCount (as.take j) := by
  have hlen : (readAsks 0#64 m).length = m := length_readAsks _ _
  refine ⟨?_, ?_⟩
  · rw [List.getElem?_append_right (by omega), hlen, Nat.add_sub_cancel_left]
  · rw [List.take_append, List.take_of_length_le (by omega), hlen, Nat.add_sub_cancel_left, readCount_append,
      readCount_readAsks]

/-- DECOMPRESS of a container where the first access that fails is one of the decode. -/
theorem Opens.decompress_of_firstFails {k : Nat} (hio : FirstFails s (decompressAsks t z ents.length payload) k)
    (hheader : NoneFails s (readAsks 0#64 (12 + 5 * ents.length))) :
    ∃ (sp : Space) (u : State), decompress s = .error (.ioFailed sp) u ∧
      ((decompressAsks t z ents.length payload)[k]?).map Prod.fst = some sp ∧ u.seqStep = seqOfStop (.ioFailed sp) ∧
      u.sink = ({ s.sink with len := 0#64, pos := 0#64 } : Stream).putAll
        ((decodeWalk t t.root z.toNat (bytesBits payload)).syms.take
          (k - readCount ((decompressAsks t z ents.length payload).take k))) := by
  have hasks := h.decompressAsks_eq
  rw [hasks] at hio
  obtain hfirst | ⟨-, j, rfl, hj⟩ := hio.append_cases (t := s.primed z n p ents t seq) env_primed
  · exact absurd hfirst hheader.not_firstFails
  · obtain ⟨pre, b, post, l, -, -, hsyms, hrun, hfails⟩ := decStream_of_firstFails rfl rfl h.traversing hj
    obtain ⟨hat, hreads⟩ := readAsks_append_at (12 + 5 * ents.length) j
      ((s.primed z n p ents t seq).walkAsks z.toNat (availableBits (s.primed z n p ents t seq)))
    have hwalk : (s.primed z n p ents t seq).walk z.toNat (availableBits (s.primed z n p ents t seq)) =
        decodeWalk t t.root z.toNat (bytesBits payload) := by
      rw [h.availableBits_primed]
      rfl
    rw [hasks, length_readAsks, hat, hreads]
    rw [hwalk] at hsyms
    obtain ⟨sp, u, hkind, hstop, hsink, hindex⟩ := exists_stop hfails
    have hcount : 12 + 5 * ents.length + j - (12 + 5 * ents.length + readCount
        (((s.primed z n p ents t seq).walkAsks z.toNat (availableBits (s.primed z n p ents t seq))).take j)) =
        ((s.primed z n p ents t seq).walk z.toNat pre).syms.length := by omega
    have hstop := decStreamInSequence_of_error (hrun.trans hstop)
    refine ⟨sp, _, (h.decompress_eq hheader).trans (Cmd.run_bind_error hstop), hkind, rfl, ?_⟩
    rw [hcount, ← hsyms]
    exact hsink

end

end

end Sys2Proof.Machine
end

section
/-! DECOMPRESS as a whole (48_decode_traversal.md R156, R160, R162): what it decodes and every way it ends. -/
namespace Sys2Proof.Machine

section
variable {s : State} {z : Word} {n p : Byte} {ents : List HdrEntry} {payload : List Byte} {t : Tree} {seq : Nat}
  (h : Opens s z n p ents payload t seq)
include h

/-- The host's TB_BUILD on the container's table makes the same tree. -/
theorem Opens.exec_tbBuild {v : State} (hv : exec .tbBuild { s with ft := tableOf ents } = .next v) :
    v.tree = t ∧ v.queue = { entries := [], seq := seq } := by
  have hrun : exec .tbBuild { s with ft := tableOf ents } = _ :=
    issue_of_ok (h.build (({ s with ft := tableOf ents } : State).setSeqStep 0#4) rfl rfl rfl)
  obtain rfl := Host.Outcome.next.inj (hrun.symm.trans hv)
  exact ⟨rfl, rfl⟩

theorem Opens.room {w : Walk} (hw : w = decodeWalk t t.root z.toNat (bytesBits payload)) :
    ({ s.sink with len := 0#64, pos := 0#64 } : Stream).Room w.syms.length :=
  h.traversing.room.le (hw ▸ (decodeWalk_bounds _ _ _ _).2)

end

/-- The bytes of OUT where it was emptied and the first of these bytes were then written. -/
theorem outBytes_emptied {s u : State} {bs : List Byte} {k : Nat} (hwf : s.sink.mem.wf)
    (hroom : ({ s.sink with len := 0#64, pos := 0#64 } : Stream).Room bs.length)
    (hu : u.sink = ({ s.sink with len := 0#64, pos := 0#64 } : Stream).putAll (bs.take k)) : outBytes u = bs.take k :=
  outBytes_opened hwf (hroom.le (List.length_take_le' k bs)) hu

/-- Settles O47: the header, the tree of its table, and the decode as the walk over the payload. -/
theorem decompressDecodes : Obligations.DecompressDecodes := by
  intro s v z n p ents payload w hwf hn hbs hz hn0 hv hio hw
  obtain ⟨t, seq, h⟩ := exists_opens hn hbs hz hn0
  obtain ⟨htree, hqueue⟩ := h.exec_tbBuild hv
  rw [htree] at hio hw ⊢
  rw [hqueue]
  have hents := getElem?_hdrEntPutAll s.hdr.ent (i := 0) (es := ents) (by have := n.isLt; omega)
  refine ⟨⟨hdrEntPutAll s.hdr.ent 0 ents, _, holds_putAll (h.room hw) hwf, fun i hi => ?_, fun i hi => ?_,
    h.exec_decompress_of_noneFails hio hw⟩, h.valid, rfl, fun hreached => ?_⟩
  · rw [hents, if_pos (by omega), Nat.sub_zero]
  · rw [hents, if_neg (by omega)]
  · obtain ⟨m, hm⟩ := Nat.exists_eq_add_one_of_ne_zero (mt (BitVec.eq_of_toNat_eq (y := 0#64)) h.size)
    rw [hw, hm] at hreached ⊢
    exact ⟨decodeWalk_reached _ _ _ _ hreached, decodeWalk_reached_node _ hreached⟩

/-! ### Every way it ends -/

/-- The outcomes of DECOMPRESS: STATUS and SEQ_STEP (48_decode_traversal.md R162). -/
def decompressOutcomes : List (Byte × BitVec 4) :=
  [(0x00#8, 0#4), (0x07#8, 1#4), (0x06#8, 1#4), (0x01#8, 1#4), (0x09#8, 2#4), (0x01#8, 4#4), (0x0A#8, 5#4), (0x08#8, 6#4),
    (0x01#8, 7#4)]

/-- What DECOMPRESS leaves: one of its outcomes, OUT as it was where it ends before step 4, and all the symbols written where it
ends Ok. -/
structure DecompressEnds (s t : State) : Prop where
  outcome : (t.status, t.seqStep) ∈ decompressOutcomes
  early : 1#4 ≤ t.seqStep → t.seqStep ≤ 3#4 → t.sink = s.sink
  ok : t.status = 0x00#8 → t.sink.len = t.hdr.size ∧ t.dec.count = t.hdr.size ∧ t.sink.pos = t.sink.len ∧ t.hdr.size ≠ 0#64

theorem DecompressEnds.of_early {s t : State} {c : Byte} {k : BitVec 4} (hstep : t.seqStep = k) (hsink : t.sink = s.sink)
    (hmem : (c, k) ∈ decompressOutcomes) (hc : c ≠ 0x00#8) : DecompressEnds s (t.setStatus c) :=
  ⟨hstep ▸ hmem, fun _ _ => hsink, fun h => absurd h hc⟩

theorem DecompressEnds.of_late {s t : State} {c : Byte} {k : BitVec 4} (hstep : t.seqStep = k) (hk : 3#4 < k)
    (hmem : (c, k) ∈ decompressOutcomes) (hc : c ≠ 0x00#8) : DecompressEnds s (t.setStatus c) := by
  refine ⟨hstep ▸ hmem, fun _ h3 => ?_, fun h => absurd h hc⟩
  have h3 : t.seqStep ≤ 3#4 := h3
  rw [hstep] at h3
  exact absurd h3 (BitVec.not_le.2 hk)

section
variable {s : State} {z : Word} {n p : Byte} {ents : List HdrEntry} {payload : List Byte}

theorem decompress_of_corrupt (hn : ents.length = n.toNat) (hbs : inBytes s = headerOf z n p ents ++ payload)
    (hbad : z = 0#64 ∨ n = 0#8) (hio : NoneFails s (readAsks 0#64 (12 + 5 * ents.length))) :
    ∃ t, decompress s = .error (.raised .corruptHeader) t ∧ t.seqStep = 2#4 ∧ t.sink = s.sink := by
  have hbad : z = 0#64 ∨ ftN (tableOf ents) = 0 := hbad.imp_right fun h0 => by
    obtain rfl : ents = [] := List.eq_nil_of_length_eq_zero (hn.trans (congrArg BitVec.toNat h0))
    exact congrArg List.length presentSyms_ftEmpty
  exact ⟨_, (decompress_of_header hn hbs hio).trans (decodeSteps_of_corrupt hbad), rfl, rfl⟩

variable {t : Tree} {seq : Nat} (h : Opens s z n p ents payload t seq)
include h

theorem Opens.exec_decompress_ends (hio : NoneFails s (readAsks 0#64 (12 + 5 * ents.length))) :
    ∃ u, exec .decompress s = .next u ∧ DecompressEnds s u := by
  obtain hall | ⟨k, hfail⟩ := noneFails_or_firstFails s (decompressAsks t z ents.length payload)
  · refine ⟨_, h.exec_decompress_of_noneFails hall rfl, ?_⟩
    cases hend : (decodeWalk t t.root z.toNat (bytesBits payload)).outcome with
    | reached =>
      have hlen := decodeWalk_reached _ _ _ _ hend
      have hsize : BitVec.ofNat 64 (decodeWalk t t.root z.toNat (bytesBits payload)).syms.length = z := by
        rw [hlen, BitVec.ofNat_toNat, BitVec.setWidth_eq]
      have hstep : (s.unpacked z n p ents t seq payload (decodeWalk t t.root z.toNat (bytesBits payload))).seqStep = 0#4 :=
        congrArg WalkEnd.seqStep hend
      refine ⟨?_, fun h1 _ => ?_, fun _ => ⟨hsize, hsize, rfl, h.size⟩⟩
      · exact hstep ▸ (by decide : (0x00#8, 0#4) ∈ decompressOutcomes)
      · have h1 : 1#4 ≤ (s.unpacked z n p ents t seq payload (decodeWalk t t.root z.toNat (bytesBits payload))).seqStep := h1
        rw [hstep] at h1
        exact absurd h1 (by decide)
    | ranOut => exact .of_late (congrArg WalkEnd.seqStep hend) (by decide) (by decide) (by decide)
    | deadEnd => exact .of_late (congrArg WalkEnd.seqStep hend) (by decide) (by decide) (by decide)
  · obtain ⟨sp, u, hrun, -, hstep, -⟩ := h.decompress_of_firstFails hfail hio
    refine ⟨_, exec_decompress_of_ioFailed hrun, ?_⟩
    cases sp with
    | inp => exact .of_late hstep (by decide) (by decide) (by decide)
    | out => exact .of_late hstep (by decide) (by decide) (by decide)

end

/-- Whatever the state, the input and the oracle. -/
theorem exec_decompress_ends (s : State) : ∃ t, exec .decompress s = .next t ∧ DecompressEnds s t := by
  obtain hio | ⟨k, hio⟩ := noneFails_or_firstFails s (readAsks 0#64 (headerReads (inBytes s)))
  · obtain ⟨m0, m1, rest, hbs, hbad⟩ | htr | ⟨z, n, p, ents, payload, hn, hbs⟩ := header_cases (inBytes s)
    · obtain ⟨t, hrun, hstep, hsink⟩ := decompress_of_bad_magic hbs hbad hio
      exact ⟨_, exec_decompress_of_raised hrun, .of_early hstep hsink (by decide) (by decide)⟩
    · obtain ⟨t, hrun, hstep, hsink⟩ := decompress_of_truncated htr hio
      exact ⟨_, exec_decompress_of_raised hrun, .of_early hstep hsink (by decide) (by decide)⟩
    · rw [hbs, headerReads_headerOf z payload hn] at hio
      by_cases hbad : z = 0#64 ∨ n = 0#8
      · obtain ⟨t, hrun, hstep, hsink⟩ := decompress_of_corrupt hn hbs hbad hio
        exact ⟨_, exec_decompress_of_raised hrun, .of_early hstep hsink (by decide) (by decide)⟩
      · obtain ⟨hz, hn0⟩ := not_or.1 hbad
        obtain ⟨t, seq, h⟩ := exists_opens hn hbs hz hn0
        exact h.exec_decompress_ends hio
  · obtain ⟨t, hrun, hstep, hsink⟩ := decompress_of_header_ioFails hio
    exact ⟨_, exec_decompress_of_ioFailed hrun, .of_early hstep hsink (by decide) (by decide)⟩

/-- Settles O49: the forms a source can begin with, the checks, then the walk up to the first access that fails. -/
theorem decompressFaultTable : Obligations.DecompressFaultTable := by
  intro s
  refine ⟨?_, fun k hio => ?_, fun hio => ⟨fun m0 m1 rest hbs hbad => ?_, fun htr => ?_, fun z n p ents payload hn hbs => ?_⟩⟩
  · obtain ⟨t, hrun, hends⟩ := exec_decompress_ends s
    exact ⟨t, hrun, hends.outcome, hends.early, hends.ok⟩
  · obtain ⟨t, hrun, hstep, -⟩ := decompress_of_header_ioFails hio
    exact ⟨_, exec_decompress_of_ioFailed hrun, rfl, hstep⟩
  · obtain ⟨t, hrun, hstep, -⟩ := decompress_of_bad_magic hbs hbad hio
    exact ⟨_, exec_decompress_of_raised hrun, rfl, hstep⟩
  · obtain ⟨t, hrun, hstep, -⟩ := decompress_of_truncated htr hio
    exact ⟨_, exec_decompress_of_raised hrun, rfl, hstep⟩
  · rw [hbs, headerReads_headerOf z payload hn] at hio
    refine ⟨fun hbad => ?_, fun v k hz hn0 hwf hv hfail => ?_⟩
    · obtain ⟨t, hrun, hstep, -⟩ := decompress_of_corrupt hn hbs hbad hio
      exact ⟨_, exec_decompress_of_raised hrun, rfl, hstep⟩
    · obtain ⟨t, seq, h⟩ := exists_opens hn hbs hz hn0
      rw [(h.exec_tbBuild hv).1] at hfail ⊢
      obtain ⟨sp, u, hrun, hkind, hstep, hsink⟩ := h.decompress_of_firstFails hfail hio
      refine ⟨_, exec_decompress_of_ioFailed hrun, rfl, fun hk => ?_, fun hk => ?_, ?_⟩
      · obtain rfl := Option.some.inj (hkind.symm.trans hk)
        exact hstep
      · obtain rfl := Option.some.inj (hkind.symm.trans hk)
        exact hstep
      · exact outBytes_emptied (u := u.setStatus 0x01#8) hwf (h.room rfl) hsink

theorem compressOutcomes_seqStep : ∀ o ∈ compressOutcomes, (o.1 = 0x00#8 ↔ o.2 = 0#4) ∧ o.2 ≤ 8#4 := by
  simp [compressOutcomes]

theorem decompressOutcomes_seqStep : ∀ o ∈ decompressOutcomes, (o.1 = 0x00#8 ↔ o.2 = 0#4) ∧ o.2 ≤ 7#4 := by
  simp [decompressOutcomes]

/-- Settles O58: the other commands write 0 to SEQ_STEP at their start alone; the outcomes of the two are in their tables. -/
theorem seqStepAfter : Obligations.SeqStepAfter := by
  intro i s t ht
  have hcompress : i = .compress → (t.status, t.seqStep) ∈ compressOutcomes := by
    rintro rfl
    obtain ⟨u, hu, hends⟩ := exec_compress_ends s
    exact Host.Outcome.next.inj (hu.symm.trans ht) ▸ hends.outcome
  have hdecompress : i = .decompress → (t.status, t.seqStep) ∈ decompressOutcomes := by
    rintro rfl
    obtain ⟨u, hu, hends⟩ := exec_decompress_ends s
    exact Host.Outcome.next.inj (hu.symm.trans ht) ▸ hends.outcome
  refine ⟨fun hc hd => ?_, ?_, fun hi => ?_, fun hi => ?_⟩
  · exact (exec_outcome (φ := Flags.seqStep) (.inr fun _ _ h => h) hc hd ht).flags
  · rintro (hi | hi)
    · exact (compressOutcomes_seqStep _ (hcompress hi)).1
    · exact (decompressOutcomes_seqStep _ (hdecompress hi)).1
  · exact (compressOutcomes_seqStep _ (hcompress hi)).2
  · exact (decompressOutcomes_seqStep _ (hdecompress hi)).2

end Sys2Proof.Machine
end

section
/-! When DECOMPRESS completes (48_decode_traversal.md R159, R99): the walk through a tree that shows a shape. -/
namespace Sys2Proof.Machine

/-! ### The walk along a path -/

theorem Shows.childNode_of_leaf {t : Tree} {l r : Shape} {i : NodeIx} (h : Shows t (.node l r) i) {b : Bool} {x : Byte}
    (hb : (if b then r else l) = .leaf (some x)) :
    t.childAt i b ≠ Config.null ∧ (recordAt t (t.childAt i b).toNat).kind = .leaf ∧
      (recordAt t (t.childAt i b).toNat).filler = false ∧ (recordAt t (t.childAt i b).toNat).sym = x := by
  have hc := h.childAt b
  rw [hb] at hc
  obtain ⟨-, hkind, hfiller, hsym⟩ := hc
  exact ⟨(h.childAt b).ne_null, hkind, hfiller, hsym x rfl⟩

/-- The path to a real leaf spells its symbol. -/
theorem decodeWalk_path {t : Tree} {T : Shape} {i : NodeIx} {path : List Bool} {x : Byte} (h : Shows t T i)
    (hp : T.At path (some x)) (hne : path ≠ []) (n : Nat) (rest : List Bool) :
    decodeWalk t i (n + 1) (path ++ rest) =
      { decodeWalk t t.root n rest with
        syms := x :: (decodeWalk t t.root n rest).syms, used := (decodeWalk t t.root n rest).used + path.length } := by
  induction path generalizing T i with
  | nil => exact absurd rfl hne
  | cons b path ih =>
    obtain ⟨l, r, rfl, hpath⟩ := hp.of_cons
    have hc := h.childAt b
    rw [List.cons_append, decodeWalk_cons, if_neg hc.ne_null]
    cases hchild : (if b then r else l) with
    | leaf o =>
      rw [hchild] at hpath
      cases hpath
      obtain ⟨-, hkind, hfiller, hsym⟩ := h.childNode_of_leaf hchild
      rw [hkind, hfiller, hsym]
      rfl
    | node l' r' =>
      rw [hchild] at hpath hc
      have hpne : path ≠ [] := by
        rintro rfl
        cases hpath
      have hkind : (recordAt t (t.childAt i b).toNat).kind = .internal := hc.2.1
      rw [hkind]
      simp only [ih hc hpath hpne, List.length_cons, Nat.add_assoc]

/-- Enough bits lead to a leaf. -/
theorem Shape.exists_at_prefix {T : Shape} {bits : List Bool} (h : T.leaves.length ≤ bits.length + 1) :
    ∃ path rest o, bits = path ++ rest ∧ T.At path o := by
  induction T generalizing bits with
  | leaf o => exact ⟨[], bits, o, rfl, .here o⟩
  | node l r ihl ihr =>
    have hl := l.leaves_length_pos
    have hr := r.leaves_length_pos
    rw [leaves, List.length_append] at h
    match bits with
    | [] =>
      rw [List.length_nil] at h
      omega
    | false :: bits =>
      rw [List.length_cons] at h
      obtain ⟨path, rest, o, rfl, hp⟩ := ihl (bits := bits) (by omega)
      exact ⟨false :: path, rest, o, rfl, .left hp⟩
    | true :: bits =>
      rw [List.length_cons] at h
      obtain ⟨path, rest, o, rfl, hp⟩ := ihr (bits := bits) (by omega)
      exact ⟨true :: path, rest, o, rfl, .right hp⟩

/-- In a tree without a filler enough bits spell any number of symbols. -/
theorem decodeWalk_of_real {t : Tree} {T : Shape} (hroot : Shows t T t.root) (hreal : none ∉ T.leaves)
    (htwo : 2 ≤ T.leaves.length) {n : Nat} {bits : List Bool} (h : T.leaves.length * n ≤ bits.length) :
    (decodeWalk t t.root n bits).outcome = .reached ∧ ∀ x ∈ (decodeWalk t t.root n bits).syms, some x ∈ T.leaves := by
  induction n generalizing bits with
  | zero =>
    rw [decodeWalk_zero]
    exact ⟨rfl, nofun⟩
  | succ n ih =>
    rw [Nat.mul_succ] at h
    obtain ⟨path, rest, o, rfl, hp⟩ := T.exists_at_prefix (bits := bits) (by omega)
    have hlt := hp.length_lt
    cases o with
    | none => exact absurd hp.mem hreal
    | some x =>
      have hne : path ≠ [] := by
        rintro rfl
        cases hp
        exact absurd htwo (by decide : ¬ 2 ≤ 1)
      rw [List.length_append] at h
      obtain ⟨hend, hsyms⟩ := ih (bits := rest) (by omega)
      rw [decodeWalk_path hroot hp hne]
      exact ⟨hend, List.forall_mem_cons.2 ⟨hp.mem, hsyms⟩⟩

/-- The shape of the single-symbol tree (42_tree_builder.md R99). -/
def singleShape (x : Byte) : Shape := .node (.leaf (some x)) (.leaf none)

theorem decodeWalk_of_single {t : Tree} {x : Byte} (hroot : Shows t (singleShape x) t.root) {n : Nat} {bits : List Bool}
    (hn : n ≤ bits.length) (hzero : ∀ b ∈ bits.take n, b = false) :
    (decodeWalk t t.root n bits).outcome = .reached ∧ (decodeWalk t t.root n bits).syms = List.replicate n x := by
  induction n generalizing bits with
  | zero =>
    rw [decodeWalk_zero]
    exact ⟨rfl, rfl⟩
  | succ n ih =>
    match bits with
    | [] => exact absurd hn (Nat.not_succ_le_zero n)
    | b :: bits =>
      rw [List.take_succ_cons, List.forall_mem_cons] at hzero
      obtain ⟨rfl, hzero⟩ := hzero
      obtain ⟨hend, hsyms⟩ := ih (Nat.le_of_succ_le_succ hn) hzero
      have hp : (singleShape x).At [false] (some x) := .left (.here _)
      have hwalk := decodeWalk_path hroot hp (List.cons_ne_nil _ _) n bits
      rw [List.singleton_append] at hwalk
      rw [hwalk]
      exact ⟨hend, (congrArg (x :: ·) hsyms).trans List.replicate_succ.symm⟩

/-! ### The shape that TB_BUILD makes -/

section
variable {s : State}

theorem tbBuild_shows_single {x : Byte} (h : presentSyms s.ft = [x]) :
    Completes tbBuild s fun _ v => Shows v.tree (singleShape x) v.tree.root := by
  rw [Completes, tbBuild_of_present (by rw [h]; exact List.cons_ne_nil _ _), h]
  exact completes_bind (buildSingle_shows x s) fun _ v ⟨_, hroot⟩ =>
    completes_of_ok (Cmd.run_update _ v) (hroot.congr rfl rfl)

theorem tbBuild_shows_general (htwo : 2 ≤ ftN s.ft) (hle : ftN s.ft ≤ 255) :
    Completes tbBuild s fun _ v => ∃ T : Shape, T.leaves.Perm ((presentSyms s.ft).map some) ∧
      Shows v.tree T v.tree.root := by
  rw [Completes, tbBuild_of_present (fun h => by rw [ftN, h] at htwo; exact absurd htwo (by decide)),
    buildFrom_of_two_le htwo]
  exact completes_bind (buildGeneral_shows s htwo hle) fun _ v ⟨T, hT, _, hroot⟩ =>
    completes_of_ok (Cmd.run_update _ v) ⟨T, hT, hroot.congr rfl rfl⟩

theorem completes_ok {c : Cmd Unit} {t : State} {Q : Unit → State → Prop} (h : Completes c s Q) (hc : c s = .ok () t) :
    Q () t := by
  obtain ⟨_, v, hv, hQ⟩ := h
  rw [hc] at hv
  cases hv
  exact hQ

theorem ftN_tableOf_le (ents : List HdrEntry) : ftN (tableOf ents) ≤ ents.length := by
  have hsub : presentSyms (tableOf ents) ⊆ ents.map HdrEntry.sym := fun x hx => mem_presentSyms_tableOf.1 hx
  exact ((presentSyms_nodup _).subperm hsub).length_le.trans (List.length_map _).le

theorem two_le_ftN_tableOf {ents : List HdrEntry} {e f : HdrEntry} (he : e ∈ ents) (hf : f ∈ ents) (hne : e.sym ≠ f.sym) :
    2 ≤ ftN (tableOf ents) := by
  have hsub : [e.sym, f.sym] ⊆ presentSyms (tableOf ents) := by
    simp [List.cons_subset, mem_presentSyms_tableOf, List.mem_map_of_mem he, List.mem_map_of_mem hf]
  have hnodup : [e.sym, f.sym].Nodup := by simpa using hne
  exact (hnodup.subperm hsub).length_le

theorem presentSyms_tableOf_of_single {ents : List HdrEntry} {x : Byte} (hne : ents ≠ []) (hx : ∀ e ∈ ents, e.sym = x) :
    presentSyms (tableOf ents) = [x] := by
  have hall : ∀ y ∈ presentSyms (tableOf ents), y = x := fun y hy => by
    obtain ⟨e, he, rfl⟩ := List.mem_map.1 (mem_presentSyms_tableOf.1 hy)
    exact hx e he
  have hrep := List.eq_replicate_of_mem hall
  have hnodup := presentSyms_nodup (tableOf ents)
  rw [hrep, List.nodup_replicate] at hnodup
  have hpos := List.length_pos_of_ne_nil (presentSyms_tableOf_ne_nil hne)
  rw [hrep, show (presentSyms (tableOf ents)).length = 1 by omega]
  rfl

end

section
variable {s : State} {z : Word} {n p : Byte} {ents : List HdrEntry} {payload : List Byte} {t : Tree} {seq : Nat}
  (h : Opens s z n p ents payload t seq)
include h

theorem Opens.outBytes_unpacked {w : Walk} (hw : w = decodeWalk t t.root z.toNat (bytesBits payload)) (hwf : s.sink.mem.wf)
    (c : Byte) : outBytes ((s.unpacked z n p ents t seq payload w).setStatus c) = w.syms := by
  have hroom := h.room hw
  refine outBytes_opened hwf hroom (Eq.trans ?_ hroom.putAll_eq.symm)
  have hzero : 0#64 + BitVec.ofNat 64 w.syms.length = BitVec.ofNat 64 w.syms.length := BitVec.zero_add _
  show _ = ({ mem := _, len := 0#64 + _, pos := 0#64 + _ } : Stream)
  rw [hzero]
  rfl

/-- A walk that spells every symbol decompresses. -/
theorem Opens.exec_decompress_of_reached (hio : s.env.ioFaults = []) (hwf : s.sink.mem.wf)
    (hend : (decodeWalk t t.root z.toNat (bytesBits payload)).outcome = .reached) :
    ∃ u, exec .decompress s = .next u ∧ u.status = 0x00#8 ∧ u.seqStep = 0#4 ∧ u.sink.len = z ∧ u.dec.count = z ∧
      outBytes u = (decodeWalk t t.root z.toNat (bytesBits payload)).syms := by
  have hsize : BitVec.ofNat 64 (decodeWalk t t.root z.toNat (bytesBits payload)).syms.length = z := by
    rw [decodeWalk_reached _ _ _ _ hend, BitVec.ofNat_toNat, BitVec.setWidth_eq]
  exact ⟨_, h.exec_decompress_of_noneFails (noneFails_of_nil hio _) rfl, congrArg WalkEnd.status hend,
    congrArg WalkEnd.seqStep hend, hsize, hsize, h.outBytes_unpacked rfl hwf _⟩

theorem Opens.shows_single {x : Byte} (hx : ∀ e ∈ ents, e.sym = x) : Shows t (singleShape x) t.root :=
  completes_ok (tbBuild_shows_single (s := s.setFt (tableOf ents)) (presentSyms_tableOf_of_single h.entries hx))
    (h.build _ rfl rfl rfl)

theorem Opens.shows_general {e f : HdrEntry} (he : e ∈ ents) (hf : f ∈ ents) (hne : e.sym ≠ f.sym) :
    ∃ T : Shape, T.leaves.Perm ((presentSyms (tableOf ents)).map some) ∧ Shows t T t.root := by
  have hle := ftN_tableOf_le ents
  have hnum := h.num
  have hlt := n.isLt
  exact completes_ok (tbBuild_shows_general (s := s.setFt (tableOf ents)) (two_le_ftN_tableOf he hf hne)
    (show ftN (tableOf ents) ≤ 255 by omega)) (h.build _ rfl rfl rfl)

end

/-- Settles O48: in a tree of two symbols or more every path is short enough and ends at a real leaf; in the tree of one each
zero spells the symbol. -/
theorem decompressCompletes : Obligations.DecompressCompletes := by
  intro s z n p ents payload hio hwf hn hbs hz
  have hbits : (bytesBits payload).length = 8 * payload.length := length_bytesBits payload
  refine ⟨fun ⟨e, he, f, hf, hne⟩ hlen => ?_, fun x hents hx hlen hzero => ?_⟩
  · have hn0 : n ≠ 0#8 := by
      rintro rfl
      exact List.not_mem_nil (List.eq_nil_of_length_eq_zero hn ▸ he)
    obtain ⟨t, seq, h⟩ := exists_opens hn hbs hz hn0
    obtain ⟨T, hT, hroot⟩ := h.shows_general he hf hne
    have hleaves : T.leaves.length = ftN (tableOf ents) := hT.length_eq.trans (List.length_map _)
    have htwo := two_le_ftN_tableOf he hf hne
    have hle : ftN (tableOf ents) ≤ 255 := by
      have := ftN_tableOf_le ents
      have := n.isLt
      omega
    have hreal : none ∉ T.leaves := fun h0 => by
      simpa using hT.mem_iff.1 h0
    obtain ⟨hend, hsyms⟩ := decodeWalk_of_real hroot hreal (by omega) (n := z.toNat) (bits := bytesBits payload) (by
      rw [hbits, hleaves]
      exact (Nat.mul_le_mul_right _ hle).trans hlen)
    obtain ⟨u, hrun, hok, hstep, hsize, hcount, hout⟩ := h.exec_decompress_of_reached hio hwf hend
    refine ⟨u, hrun, hok, hstep, hsize, hcount, fun x hx => ?_⟩
    rw [hout] at hx
    have hmem : some x ∈ (presentSyms (tableOf ents)).map some := hT.mem_iff.1 (hsyms x hx)
    exact mem_presentSyms_tableOf.1 (by simpa using hmem)
  · have hn0 : n ≠ 0#8 := by
      rintro rfl
      exact hents (List.eq_nil_of_length_eq_zero hn)
    obtain ⟨t, seq, h⟩ := exists_opens hn hbs hz hn0
    obtain ⟨hend, hsyms⟩ := decodeWalk_of_single (h.shows_single hx) (n := z.toNat) (bits := bytesBits payload)
      (by rw [hbits]; exact hlen) hzero
    obtain ⟨u, hrun, hok, hstep, -, -, hout⟩ := h.exec_decompress_of_reached hio hwf hend
    exact ⟨u, hrun, hok, hstep, hout.trans hsyms⟩

end Sys2Proof.Machine
end

section
/-! COMPRESS and DECOMPRESS depend on IN, IN_LEN and the parameters alone (47_compress_sequencer.md R147,
48_decode_traversal.md R165). -/
namespace Sys2Proof.Machine

/-- Two states at the end of a composite command on one input: the same fault at the same step, or the same output. -/
structure SameEnd (t v : State) : Prop where
  status : t.status = v.status
  seqStep : t.seqStep = v.seqStep
  out : t.status = 0x00#8 → outBytes t = outBytes v

theorem SameEnd.of_fault {t v : State} {c : Byte} {n : BitVec 4} (ht : t.seqStep = n) (hv : v.seqStep = n) (hc : c ≠ 0x00#8) :
    SameEnd (t.setStatus c) (v.setStatus c) := ⟨rfl, ht.trans hv.symm, fun h => absurd h hc⟩

/-! ### COMPRESS -/

section
variable {s u : State} {t t' : Tree} {seq seq' : Nat} {T : Shape}

/-- What COMPRESS writes, from the input and the codes. -/
theorem Analysis.exec_compress_of_noneFails (h : Analysis s t seq T) (hne : inBytes s ≠ []) (hlack : ∃ x, x ∉ inBytes s)
    (hlt : ∀ x, (inBytes s).count x < 2 ^ 32) (hwf : s.sink.mem.wf) (hio : NoneFails s (compressAsks T.codes (inBytes s))) :
    ∃ v, exec .compress s = .next v ∧ v.status = 0x00#8 ∧ v.seqStep = 0#4 ∧
      outBytes v = headerOf s.src.len (BitVec.ofNat 8 (distinctSyms (inBytes s)).length)
        (BitVec.ofNat 8 (padCount (payloadBits T.codes (inBytes s)).length)) (countsOf (inBytes s)) ++
          packedBytes (payloadBits T.codes (inBytes s)) := by
  have hout := (h.canPack hlack hlt).container_holds s.src.len hwf
  rw [inBytes_analysed] at hout
  refine ⟨_, exec_compress_of_ok (h.compress_of_noneFails hne hlack hlt hio), rfl, rfl, hout.bytes.trans ?_⟩
  rw [State.containerBytes, State.analysed, (counts_tableOf _).ftN_eq, (counts_tableOf _).entriesOf_eq]

variable (hin : inBytes s = inBytes u) (henv : s.env = u.env)
include hin henv

theorem Analysis.compress_sameEnd (h : Analysis s t seq T) (h' : Analysis u t' seq' T) (hsize : s.src.len = u.src.len)
    (hs : s.sink.mem.wf) (hu : u.sink.mem.wf) (hne : inBytes s ≠ []) (hlack : ∃ x, x ∉ inBytes s)
    (hlt : ∀ x, (inBytes s).count x < 2 ^ 32) :
    ∃ v w, exec .compress s = .next v ∧ exec .compress u = .next w ∧ SameEnd v w := by
  have hne' : inBytes u ≠ [] := hin ▸ hne
  have hlack' : ∃ x, x ∉ inBytes u := hin ▸ hlack
  have hlt' : ∀ x, (inBytes u).count x < 2 ^ 32 := hin ▸ hlt
  obtain hio | ⟨k, hio⟩ := noneFails_or_firstFails s (compressAsks T.codes (inBytes s))
  · have hio' : NoneFails u (compressAsks T.codes (inBytes u)) := hin ▸ (noneFails_congr henv).1 hio
    obtain ⟨v, hv, hok, hstep, hout⟩ := h.exec_compress_of_noneFails hne hlack hlt hs hio
    obtain ⟨w, hw, hok', hstep', hout'⟩ := h'.exec_compress_of_noneFails hne' hlack' hlt' hu hio'
    exact ⟨v, w, hv, hw, hok.trans hok'.symm, hstep.trans hstep'.symm, fun _ => by rw [hout, hout', hin, hsize]⟩
  · have hio' : FirstFails u (compressAsks T.codes (inBytes u)) k := hin ▸ (firstFails_congr henv).1 hio
    have hk : k < (compressSteps T.codes (inBytes s)).length := by
      have hk := hio.lt
      rwa [compressAsks, List.length_map] at hk
    obtain ⟨⟨n, a⟩, hat⟩ : ∃ x, (compressSteps T.codes (inBytes s))[k]? = some x := ⟨_, List.getElem?_eq_getElem hk⟩
    obtain ⟨sp, v, hv, hstep, -⟩ := h.compress_of_firstFails hne hlack hlt hio hat
    obtain ⟨sp', w, hw, hstep', -⟩ := h'.compress_of_firstFails hne' hlack' hlt' hio' (hin ▸ hat)
    exact ⟨_, _, exec_compress_of_ioFailed hv, exec_compress_of_ioFailed hw, .of_fault hstep hstep' (by decide)⟩

theorem compress_sameEnd (hsize : s.src.len = u.src.len) (hs : s.sink.mem.wf) (hu : u.sink.mem.wf) :
    ∃ v w, exec .compress s = .next v ∧ exec .compress u = .next w ∧ SameEnd v w := by
  obtain ⟨hio, hlt⟩ | ⟨k, hio, hlt⟩ | ⟨done, hover, hio⟩ := scan_cases s
  · have hio' : NoneFails u (readAsks 0#64 (inBytes u).length) := hin ▸ (noneFails_congr henv).1 hio
    have hscan := compress_of_scanned hio hlt
    have hscan' := compress_of_scanned hio' (hin ▸ hlt)
    by_cases hne : inBytes s = []
    · exact ⟨_, _, exec_compress_of_raised (hscan.trans (checkedSteps_of_empty _ hne)),
        exec_compress_of_raised (hscan'.trans (checkedSteps_of_empty _ (hin ▸ hne))), .of_fault rfl rfl (by decide)⟩
    · by_cases hall : ∀ v, v ∈ inBytes s
      · exact ⟨_, _, exec_compress_of_raised (hscan.trans (checkedSteps_of_full _ hall)),
          exec_compress_of_raised (hscan'.trans (checkedSteps_of_full _ (hin ▸ hall))), .of_fault rfl rfl (by decide)⟩
      · have hlack := not_forall.1 hall
        obtain ⟨t, seq, t', seq', T, h, h'⟩ := exists_analyses hin (congrArg Env.tieRank henv) hne hlack
        exact h.compress_sameEnd hin henv h' hsize hs hu hne hlack hlt
  · obtain ⟨v, hv, hstep, -⟩ := compress_of_scan_ioFails hio hlt
    obtain ⟨w, hw, hstep', -⟩ := compress_of_scan_ioFails (s := u) (hin ▸ (firstFails_congr henv).1 hio) (hin ▸ hlt)
    exact ⟨_, _, exec_compress_of_ioFailed hv, exec_compress_of_ioFailed hw, .of_fault hstep hstep' (by decide)⟩
  · obtain ⟨v, hv, hstep, -⟩ := compress_of_overflow hover hio
    obtain ⟨w, hw, hstep', -⟩ := compress_of_overflow (s := u) (hin ▸ hover) ((noneFails_congr henv).1 hio)
    exact ⟨_, _, exec_compress_of_raised hv, exec_compress_of_raised hw, .of_fault hstep hstep' (by decide)⟩

end

/-! ### The walk -/

section
variable {t t' : Tree} (hinv : TreeInv t) (hroot : t.root = t'.root)
  (hrec : ∀ i, i < t.cnt.toNat → recordAt t i = recordAt t' i)
include hinv hroot hrec

omit hroot in
theorem childAt_lt {i : NodeIx} (hi : i.toNat < t.cnt.toNat) (hk : (recordAt t i.toNat).kind = .internal) (b : Bool) :
    (t.childAt i b).toNat < t.cnt.toNat ∧ t.childAt i b = t'.childAt i b := by
  refine ⟨(hinv.childrenBelow _ hi (t.childAt i b) ?_).trans hi, by rw [Tree.childAt, Tree.childAt, hrec _ hi]⟩
  rw [Node.children_of_internal hk, Tree.childAt]
  cases b <;> simp

/-- Trees that agree on the records in use spell the same from the same bits, with the same accesses. -/
theorem decodeWalk_congr {bits : List Bool} {i : NodeIx} (n left : Nat) (p q : Word) (hi : i.toNat < t.cnt.toNat)
    (hk : (recordAt t i.toNat).kind = .internal) :
    decodeWalk t i n bits = decodeWalk t' i n bits ∧ decodeAsks t i n left p q bits = decodeAsks t' i n left p q bits := by
  have hlast := hinv.rootLast
  induction bits generalizing i n left p q with
  | nil => cases n <;> exact ⟨rfl, rfl⟩
  | cons b bits ih =>
    cases n with
    | zero => exact ⟨rfl, rfl⟩
    | succ n =>
      obtain ⟨hlt, hchild⟩ := childAt_lt hinv hrec hi hk b
      rw [decodeWalk_cons, decodeWalk_cons, decodeAsks_cons, decodeAsks_cons, ← hchild, ← hrec _ hlt, ← hroot]
      cases hkc : (recordAt t (t.childAt i b).toNat).kind with
      | internal =>
        have hnext (n left : Nat) (p q : Word) := ih n left p q hlt hkc
        simp only [(hnext _ 0 0 0).1, (hnext _ _ _ _).2, and_self]
      | leaf =>
        have hnext (n left : Nat) (p q : Word) := ih n left p q (i := t.root) (by omega) hinv.rootInternal
        simp only [(hnext _ 0 0 0).1, (hnext _ _ _ _).2, and_self]

end

/-! ### DECOMPRESS -/

section
variable {s u : State} (hin : inBytes s = inBytes u) (henv : s.env = u.env)
include hin henv

omit hin in
/-- On one container the two trees agree on the records in use. -/
theorem Opens.sameTree {z : Word} {n p : Byte} {ents : List HdrEntry} {payload : List Byte} {t t' : Tree} {seq seq' : Nat}
    (h : Opens s z n p ents payload t seq) (h' : Opens u z n p ents payload t' seq') :
    t.root = t'.root ∧ ∀ i, i < t.cnt.toNat → recordAt t i = recordAt t' i := by
  have halike := endAlike_tbBuild (s := s.setFt (tableOf ents)) (u := u.setFt (tableOf ents)) rfl
    (congrArg Env.tieRank henv) (presentSyms_tableOf_ne_nil h.entries)
  rw [h.build (s.setFt (tableOf ents)) rfl rfl rfl, h'.build (u.setFt (tableOf ents)) rfl rfl rfl] at halike
  exact ⟨halike.of_ok.root, halike.of_ok.records⟩

omit hin in
theorem Opens.decompress_sameEnd {z : Word} {n p : Byte} {ents : List HdrEntry} {payload : List Byte} {t t' : Tree}
    {seq seq' : Nat} (h : Opens s z n p ents payload t seq) (h' : Opens u z n p ents payload t' seq')
    (hs : s.sink.mem.wf) (hu : u.sink.mem.wf) (hheader : NoneFails s (readAsks 0#64 (12 + 5 * ents.length))) :
    ∃ v w, exec .decompress s = .next v ∧ exec .decompress u = .next w ∧ SameEnd v w := by
  obtain ⟨hroot, hrec⟩ := h.sameTree henv h'
  have hlast := h.inv.rootLast
  obtain ⟨hwalk, hasks⟩ := decodeWalk_congr h.inv hroot hrec (bits := bytesBits payload) (i := t.root) z.toNat 0
    (BitVec.ofNat 64 (12 + 5 * ents.length)) 0#64 (by omega) h.inv.rootInternal
  rw [hroot] at hwalk hasks
  have hasks : decompressAsks t z ents.length payload = decompressAsks t' z ents.length payload := by
    rw [decompressAsks, decompressAsks, hroot, hasks]
  obtain hio | ⟨k, hio⟩ := noneFails_or_firstFails s (decompressAsks t z ents.length payload)
  · have hio' : NoneFails u (decompressAsks t' z ents.length payload) := hasks ▸ (noneFails_congr henv).1 hio
    have hv := h.exec_decompress_of_noneFails hio rfl
    have hw := h'.exec_decompress_of_noneFails hio' rfl
    have hout := h.outBytes_unpacked rfl hs
    have hout' := h'.outBytes_unpacked rfl hu
    rw [hroot, hwalk] at hv hout
    exact ⟨_, _, hv, hw, rfl, rfl, fun _ => (hout _).trans (hout' _).symm⟩
  · have hio' : FirstFails u (decompressAsks t' z ents.length payload) k := hasks ▸ (firstFails_congr henv).1 hio
    obtain ⟨sp, v, hv, hkind, hstep, -⟩ := h.decompress_of_firstFails hio hheader
    obtain ⟨sp', w, hw, hkind', hstep', -⟩ := h'.decompress_of_firstFails hio' ((noneFails_congr henv).1 hheader)
    rw [hasks] at hkind
    obtain rfl := Option.some.inj (hkind.symm.trans hkind')
    exact ⟨_, _, exec_decompress_of_ioFailed hv, exec_decompress_of_ioFailed hw, .of_fault hstep hstep' (by decide)⟩

theorem decompress_sameEnd (hs : s.sink.mem.wf) (hu : u.sink.mem.wf) :
    ∃ v w, exec .decompress s = .next v ∧ exec .decompress u = .next w ∧ SameEnd v w := by
  obtain hio | ⟨k, hio⟩ := noneFails_or_firstFails s (readAsks 0#64 (headerReads (inBytes s)))
  · have hio' : NoneFails u (readAsks 0#64 (headerReads (inBytes u))) := hin ▸ (noneFails_congr henv).1 hio
    obtain ⟨m0, m1, rest, hbs, hbad⟩ | htr | ⟨z, n, p, ents, payload, hn, hbs⟩ := header_cases (inBytes s)
    · obtain ⟨v, hv, hstep, -⟩ := decompress_of_bad_magic hbs hbad hio
      obtain ⟨w, hw, hstep', -⟩ := decompress_of_bad_magic (hin ▸ hbs) hbad hio'
      exact ⟨_, _, exec_decompress_of_raised hv, exec_decompress_of_raised hw, .of_fault hstep hstep' (by decide)⟩
    · obtain ⟨v, hv, hstep, -⟩ := decompress_of_truncated htr hio
      obtain ⟨w, hw, hstep', -⟩ := decompress_of_truncated (hin ▸ htr) hio'
      exact ⟨_, _, exec_decompress_of_raised hv, exec_decompress_of_raised hw, .of_fault hstep hstep' (by decide)⟩
    · rw [hbs, headerReads_headerOf z payload hn] at hio
      have hbs' := hin.symm.trans hbs
      rw [hbs', headerReads_headerOf z payload hn] at hio'
      by_cases hbad : z = 0#64 ∨ n = 0#8
      · obtain ⟨v, hv, hstep, -⟩ := decompress_of_corrupt hn hbs hbad hio
        obtain ⟨w, hw, hstep', -⟩ := decompress_of_corrupt hn hbs' hbad hio'
        exact ⟨_, _, exec_decompress_of_raised hv, exec_decompress_of_raised hw, .of_fault hstep hstep' (by decide)⟩
      · obtain ⟨hz, hn0⟩ := not_or.1 hbad
        obtain ⟨t, seq, h⟩ := exists_opens hn hbs hz hn0
        obtain ⟨t', seq', h'⟩ := exists_opens hn hbs' hz hn0
        exact h.decompress_sameEnd henv h' hs hu hio
  · obtain ⟨v, hv, hstep, -⟩ := decompress_of_header_ioFails hio
    obtain ⟨w, hw, hstep', -⟩ := decompress_of_header_ioFails (s := u) (hin ▸ (firstFails_congr henv).1 hio)
    exact ⟨_, _, exec_decompress_of_ioFailed hv, exec_decompress_of_ioFailed hw, .of_fault hstep hstep' (by decide)⟩

end

/-- Settles O50: each command's outcome is fixed by the bytes of the input and the parameters, case by case. -/
theorem selfContained : Obligations.SelfContained := by
  rintro i s u hi hmem hlen henv hs hu
  have hin : inBytes s = inBytes u := inBytes_congr hmem hlen
  obtain rfl | rfl := hi
  · obtain ⟨v, w, hv, hw, hsame⟩ := compress_sameEnd hin henv hlen hs hu
    exact ⟨v, w, hv, hw, hsame.status, hsame.seqStep, hsame.out⟩
  · obtain ⟨v, w, hv, hw, hsame⟩ := decompress_sameEnd hin henv hs hu
    exact ⟨v, w, hv, hw, hsame.status, hsame.seqStep, hsame.out⟩

end Sys2Proof.Machine
end
